-- ==== Sys2Proof/Word.lean ====
section
/-! DEFINITION. The bit-vector types of the hx711_spi codec block (00_scope.md R11, R24): the byte of the serial bus and of
the command word, the 32-bit word of the host registers, and the 7-byte readback of one read frame. -/

namespace Sys2Proof

/-- A byte: a command word, a byte written on the serial bus or one captured from it (R24; bit 7 is the most significant). -/
abbrev Byte := BitVec 8

/-- A host register (R11: host register width 32 bits). -/
abbrev Word := BitVec 32

/-- FRAME_LEN, the number of bytes of one read frame (R11, 92_eei_decisions.md D20). -/
abbrev frameLen : Nat := 7

/-- The bytes one read transfer captures, byte 0 first on the wire (R42, R110): the register RX[0..6]. -/
abbrev Readback := Vector Byte frameLen

end Sys2Proof
end

