-- ==== Sys2Proof/Syntax.lean ====
section
/-! DEFINITION. The syntax: the three channel/gain modes, the commands of spec/opcode_table.json (one constructor of `Instr`
per row), the fields of a command word, the host's accesses to the register window, and the lines of the assembler. -/

namespace Sys2Proof

/-- The three modes (41_mode.md R160). "Invalid combinations are unrepresentable by construction" (R165): the fourth value
of the 2-bit code names no mode (30_encoding.md R104). -/
inductive Mode where
  /-- A128, code 0b00: channel A, gain 128. -/
  | a128
  /-- B32, code 0b01: channel B, gain 32. -/
  | b32
  /-- A64, code 0b10: channel A, gain 64. -/
  | a64
deriving DecidableEq, Repr, Inhabited

/-- The commands, one constructor per row of spec/opcode_table.json (30_encoding.md R103, R109). No command has a free
operand field: the mode of SETMODE is fixed by the row, and every other command has none (R105). -/
inductive Instr where
  /-- SETMODE A128, word 0x10 (R161). -/
  | setmodeA128
  /-- SETMODE B32, word 0x11 (R161). -/
  | setmodeB32
  /-- SETMODE A64, word 0x12 (R161). -/
  | setmodeA64
  /-- READNB, word 0x20 (R180). -/
  | readnb
  /-- READBLK, word 0x30 (R181). -/
  | readblk
  /-- RESET, word 0x40 (R220). -/
  | reset
  /-- PWRDN, word 0x50 (R250). -/
  | pwrdn
  /-- PWRUP, word 0x60 (R251). -/
  | pwrup
deriving DecidableEq, Repr

/-- The fields of a command word, format CMD8 `OOOO RRMM` (30_encoding.md R100). -/
structure CmdFields where
  /-- OP, bits 7:4. -/
  op : BitVec 4
  /-- RSV, bits 3:2. -/
  rsv : BitVec 2
  /-- M, bits 1:0. -/
  m : BitVec 2
deriving DecidableEq, Repr

/-- The eight word slots of the host register window (20_memory.md R71). -/
inductive HostReg where
  | cmd
  | status
  | result
  | buserr
  | rxlo
  | rxhi
  | rstlen
  /-- The reserved slot at offset 0x1C. -/
  | reserved
deriving DecidableEq, Repr

/-- One host access, as the interconnect presents it: a window offset and a size in bytes (20_memory.md R72, R74). -/
inductive HostAccess where
  /-- `MemRead(off, size)`. -/
  | read (off size : Nat)
  /-- `MemWrite(off, size, v)`. -/
  | write (off size : Nat) (v : Word)
deriving DecidableEq, Repr

/-- Which agent takes the next step of the model, and what it asks for (00_scope.md R8, R9). -/
inductive Turn where
  /-- One host access. -/
  | access (a : HostAccess)
  /-- The host's WAIT: read STATUS, and again until BUSY = 0 (30_encoding.md R115). -/
  | wait
  /-- One step of the block sequencer: a bus transaction or a delay (R8). -/
  | sequencer
  /-- The block's reset input is asserted (70_reset_and_hazards.md R300). -/
  | blockReset
deriving DecidableEq, Repr

/-- The lines of the assembler: commands and raw words (R113), host accesses (R114), pseudo-instructions (R115). -/
inductive AsmLine where
  | command (i : Instr)
  /-- `.word 0xNN`, legal or not. -/
  | word (b : Byte)
  /-- `RD <reg>`. -/
  | rd (r : HostReg)
  /-- `WR <reg>, <value>`. -/
  | wr (r : HostReg) (v : Word)
  | wait
  | read
  | tryRead
  | select (m : Mode)
  | adcReset
deriving DecidableEq, Repr

end Sys2Proof
end

