-- ==== Sys2Proof/Config.lean ====
section
/-! DEFINITION. What is fixed for a launch, and what the environment draws: the configuration parameters of 00_scope.md R12
(plain data, held in State and changed by no step), and the free values (constants with no body) that stand for the draws of
the bus-and-ADC environment (R23) where the state lists no answer. -/

namespace Sys2Proof

/-- What the transport returns for one bus transaction (00_scope.md R20): `Ok` with what was captured, or `Err(e)` with the
opaque error value. The value is carried in 32 bits; the port keeps its low BUS_ERR_W bits. -/
inductive BusAnswer (α : Type) where
  | ok (captured : α)
  | err (e : Word)
deriving DecidableEq, Repr, Inhabited

/-- The same answer with `f` applied to what was captured. -/
def BusAnswer.map {α β : Type} (f : α → β) : BusAnswer α → BusAnswer β
  | .ok a => .ok (f a)
  | .err e => .err e

/-- The configuration parameters (00_scope.md R12, 10_state.md R44, 20_memory.md R70). "A model takes each as an argument of
the launch; none changes while the block runs." -/
structure Config where
  /-- BASE, where the platform puts the register window (R70); nothing in the block depends on it. -/
  base : Nat
  /-- F_SCK, the wire bit rate in Hz. -/
  fSck : Nat
  /-- F_MAX, the fastest wire bit rate the block must support, in Hz. -/
  fMax : Nat
  /-- RESET_BYTES, the length of the reset burst in bytes (R44, 43_reset.md R221). -/
  resetBytes : BitVec 16
  /-- POLL_DELAY_MS, the delay between readiness samples of the blocking read. -/
  pollDelayMs : Nat
  /-- BUS_ERR_W, the width in bits of the transport's error value. -/
  busErrW : Nat
  /-- MAX_TRANSFER, the largest transaction, in bytes, the transport accepts. -/
  maxTransfer : Nat
  /-- T_SETTLE, the host's wait after RESET, in microseconds (a host duty; 70_reset_and_hazards.md R311). -/
  tSettle : Nat
deriving DecidableEq, Repr

/-- The configuration that `State.reset` is launched with: the values of the spec's programs P1 and P3 (F_SCK = 1 MHz,
RESET_BYTES = 8). DESIGN CHOICE (log entry 2): the parameters are OPEN in the spec; statements quantify over every
configuration. -/
def Config.reference : Config :=
  { base := 0, fSck := 1000000, fMax := 1000000, resetBytes := 8, pollDelayMs := 1, busErrW := 32, maxTransfer := 8,
    tSettle := 0 }

/-- Free value: the transport's answer to the readiness poll that is draw number `n` (R23; log entry 3). -/
opaque Config.freePoll : Nat → BusAnswer Byte

/-- Free value: the transport's answer to the read transfer that is draw number `n` (R23; log entry 3). -/
opaque Config.freeFrame : Nat → BusAnswer Readback

/-- Free value: the transport's answer to the reset burst that is draw number `n` (R23; log entry 3). -/
opaque Config.freeBurst : Nat → BusAnswer Unit

/-- Free value: the mode that adc_sel becomes after a failed transfer or burst (42_read.md R187, 43_reset.md R223), for draw
number `n` (log entry 4). -/
opaque Config.freeAdcSel : Nat → Mode

/-- Free value: adc_sel at launch where no premise says that the ADC has just powered on (10_state.md R45; log entry 5). -/
opaque Config.launchAdcSel : Mode

end Sys2Proof
end

