-- ==== Sys2Proof/Machine/Timing.lean ====
section
/-! DEFINITION. The integer arithmetic of the burst length (43_reset.md R221) and the bus time of a transaction
(70_reset_and_hazards.md R321), in wire-bit periods of 1/F_SCK seconds. -/

namespace Sys2Proof.Machine

/-- T_PD, the ADC's power-down threshold in microseconds (00_scope.md R11). -/
def tPd : Nat := 60

/-- N_min(F_SCK), the least burst length in bytes: `(60 × F_SCK) div 8 000 000 + 1` (R221). -/
def nMin (fSck : Nat) : Nat := (60 * fSck) / 8000000 + 1

/-- A level held for `bits` wire-bit periods at `fSck` Hz lasts longer than T_PD: bits / F_SCK > 60 µs, in integers (R221). -/
def exceedsThreshold (bits fSck : Nat) : Bool := tPd * fSck < bits * 1000000

/-- The wire-bit periods of a transaction of `n` bytes (R321: a poll 8, a read frame 56, a burst 8 × RESET_BYTES). -/
def busBits (n : Nat) : Nat := 8 * n

end Sys2Proof.Machine
end

