-- ==== Sys2Proof/WellFormed.lean ====
section
/-! DEFINITION. The checks the spec puts on what comes from outside: the fields of a command word (30_encoding.md R106), a host
access (20_memory.md R70, R74), a configuration (00_scope.md R12, 43_reset.md R221). `Instr` needs none: it has no operand
fields, so every term of it is a legal command (R165: "unrepresentable by construction"). -/

namespace Sys2Proof

/-- R106 case 1: OP = 0x0, or OP ≥ 0x7. -/
def CmdFields.opIllegal (f : CmdFields) : Bool := f.op == 0x0 || 7 ≤ f.op.toNat

/-- R106 case 2: RSV ≠ 0b00. -/
def CmdFields.rsvIllegal (f : CmdFields) : Bool := f.rsv != 0b00

/-- R106 case 3: OP ∈ {0x2, …, 0x6} and M ≠ 0b00. -/
def CmdFields.operandIllegal (f : CmdFields) : Bool := 2 ≤ f.op.toNat && f.op.toNat ≤ 6 && f.m != 0b00

/-- R106 case 4: OP = 0x1 and M = 0b11. -/
def CmdFields.modeIllegal (f : CmdFields) : Bool := f.op == 0x1 && f.m == 0b11

/-- The fields are those of a legal command: none of the four cases of R106 holds. -/
def CmdFields.wf (f : CmdFields) : Bool :=
  !(f.opIllegal || f.rsvIllegal || f.operandIllegal || f.modeIllegal)

/-- The window offset of an access. -/
def HostAccess.off : HostAccess → Nat
  | .read off _ => off
  | .write off _ _ => off

/-- The size of an access, in bytes. -/
def HostAccess.size : HostAccess → Nat
  | .read _ size => size
  | .write _ size _ => size

/-- A 32-bit access at an offset that is a multiple of 4 (R74). -/
def HostAccess.aligned (a : HostAccess) : Bool := a.size == 4 && a.off % 4 == 0

/-- An access inside the window 0x00 to 0x1F (R70). -/
def HostAccess.inWindow (a : HostAccess) : Bool := a.off < 0x20

/-- An access the block gives a meaning to. -/
def HostAccess.wf (a : HostAccess) : Bool := a.aligned && a.inWindow

/-- F_SCK ≥ 20 000 (R12). -/
def Config.speedOk (c : Config) : Bool := 20000 ≤ c.fSck

/-- F_MAX ≥ F_SCK (R12). -/
def Config.maxSpeedOk (c : Config) : Bool := c.fSck ≤ c.fMax

/-- RESET_BYTES ≥ N_min(F_SCK) (R221). -/
def Config.burstOk (c : Config) : Bool := Machine.nMin c.fSck ≤ c.resetBytes.toNat

/-- POLL_DELAY_MS ≥ 1 (R12). -/
def Config.delayOk (c : Config) : Bool := 1 ≤ c.pollDelayMs

/-- 1 ≤ BUS_ERR_W ≤ 32 (R12). -/
def Config.errWidthOk (c : Config) : Bool := 1 ≤ c.busErrW && c.busErrW ≤ 32

/-- MAX_TRANSFER ≥ max(FRAME_LEN, RESET_BYTES) (R12). -/
def Config.transferOk (c : Config) : Bool := max frameLen c.resetBytes.toNat ≤ c.maxTransfer

/-- A configuration that meets every constraint of R12 and R221. -/
def Config.wf (c : Config) : Bool :=
  c.speedOk && c.maxSpeedOk && c.burstOk && c.delayOk && c.errWidthOk && c.transferOk

end Sys2Proof
end

