-- ==== Sys2Proof/Decode.lean ====
section
/-! DEFINITION. The command word (30_encoding.md R100 to R109): its fields, the total decode of R108, which rejects an illegal
word by name, and the encoder, written from the same map (R103, R104). -/

namespace Sys2Proof

/-- The fields of a command word, `OOOO RRMM` (R100, R105: each read as an unsigned value, with no extension or shift). -/
def wordFields (w : Byte) : CmdFields :=
  { op := w.extractLsb' 4 4, rsv := w.extractLsb' 2 2, m := w.extractLsb' 0 2 }

/-- The command word with the given fields (R100). -/
def packFields (f : CmdFields) : Byte := f.op ++ f.rsv ++ f.m

/-- The 2-bit code of a mode, in the field M and in the register MODE (R104, 10_state.md R32). -/
def modeCode : Mode → BitVec 2
  | .a128 => 0b00
  | .b32 => 0b01
  | .a64 => 0b10

/-- The mode a 2-bit code names; 0b11 names none (R104). -/
def modeOfCode (m : BitVec 2) : Option Mode :=
  if m = 0b00 then some .a128
  else if m = 0b01 then some .b32
  else if m = 0b10 then some .a64
  else none

/-- Why a command word is illegal, named by the case of 30_encoding.md R106 that R108 finds first. -/
inductive IllegalWord where
  /-- RSV is not 0b00 (case 2). -/
  | reservedBits
  /-- SETMODE with M = 0b11, which names no mode (case 4). -/
  | reservedMode
  /-- M is not 0b00 in an operation that has no operand (cases 1 and 3). -/
  | operandNotZero
  /-- OP = 0x0 or OP ≥ 0x7 (case 1). -/
  | unknownOp
deriving DecidableEq, Repr

/-- What a command word decodes to. -/
inductive Decoded where
  | instr (i : Instr)
  | illegal (why : IllegalWord)
deriving DecidableEq, Repr

/-- SETMODE of a mode: one row of the opcode table each. -/
def setmode : Mode → Instr
  | .a128 => .setmodeA128
  | .b32 => .setmodeB32
  | .a64 => .setmodeA64

/-- Decode, total over all 256 words, in the order of R108. -/
def decode (w : Byte) : Decoded :=
  let f := wordFields w
  if f.rsv ≠ 0b00 then .illegal .reservedBits
  else if f.op = 0x1 then
    match modeOfCode f.m with
    | some m => .instr (setmode m)
    | none => .illegal .reservedMode
  else if f.m ≠ 0b00 then .illegal .operandNotZero
  else if f.op = 0x2 then .instr .readnb
  else if f.op = 0x3 then .instr .readblk
  else if f.op = 0x4 then .instr .reset
  else if f.op = 0x5 then .instr .pwrdn
  else if f.op = 0x6 then .instr .pwrup
  else .illegal .unknownOp

/-- The instruction a word decodes to, if it is legal. -/
def Decoded.instr? : Decoded → Option Instr
  | .instr i => some i
  | .illegal _ => none

/-- The fields of an instruction (R103: OP; R104: M; RSV is 0b00). -/
def instrFields : Instr → CmdFields
  | .setmodeA128 => { op := 0x1, rsv := 0, m := modeCode .a128 }
  | .setmodeB32 => { op := 0x1, rsv := 0, m := modeCode .b32 }
  | .setmodeA64 => { op := 0x1, rsv := 0, m := modeCode .a64 }
  | .readnb => { op := 0x2, rsv := 0, m := 0 }
  | .readblk => { op := 0x3, rsv := 0, m := 0 }
  | .reset => { op := 0x4, rsv := 0, m := 0 }
  | .pwrdn => { op := 0x5, rsv := 0, m := 0 }
  | .pwrup => { op := 0x6, rsv := 0, m := 0 }

/-- The word of an instruction. -/
def encode (i : Instr) : Byte := packFields (instrFields i)

/-- The command byte of a table word given as a number: a command is exactly 8 bits (R102), and every bit at or above
`nbits` is 0. -/
def tableByte (nbits w : Nat) : Byte := BitVec.ofNat 8 (w % 2 ^ nbits)

/-- The instruction the decoder reads from an opcode-table word of `nbits` bits (none where the word is illegal). -/
def decodeTableWord (nbits w : Nat) : Option Instr := (decode (tableByte nbits w)).instr?

end Sys2Proof
end

