-- ==== Sys2Proof/Machine/Codec.lean ====
section
/-! DEFINITION. The bit-stream codec, pure functions (40_codec.md, 00_scope.md R26): the wire pulses, the clock byte, the
trailers, the encoder, the decoder, and the other fixed frames. -/

namespace Sys2Proof.Machine

/-- The wire bits of one byte, most significant first (30_encoding.md R101). -/
def byteBits (b : Byte) : List Bool := (List.range 8).map fun i => b.getLsbD (7 - i)

/-- The wire-bit string of a byte sequence, byte 0 first (R101). -/
def wireBits (bs : List Byte) : List Bool := bs.flatMap byteBits

/-- The pulses of a wire-bit string that starts with the line at level `prev`: its low-to-high transitions (R130). -/
def pulsesFrom (prev : Bool) : List Bool → Nat
  | [] => 0
  | b :: rest => (if b && !prev then 1 else 0) + pulsesFrom b rest

/-- `pulses(s)`: the pulse count of a byte sequence written from a low line (R130). -/
def pulses (bs : List Byte) : Nat := pulsesFrom false (wireBits bs)

/-- The lengths, in wire-bit periods, of the maximal high phases of a wire-bit string, after `n` high bits already seen. -/
def highRunsFrom (n : Nat) : List Bool → List Nat
  | [] => if n = 0 then [] else [n]
  | true :: rest => highRunsFrom (n + 1) rest
  | false :: rest => if n = 0 then highRunsFrom 0 rest else n :: highRunsFrom 0 rest

/-- The lengths of the high phases of the clock line while a byte sequence is written from a low line (R140, R141). -/
def highRuns (bs : List Byte) : List Nat := highRunsFrom 0 (wireBits bs)

/-- The level of the clock line right after the last bit of a byte sequence written from a low line (R141). -/
def lineAfter (bs : List Byte) : Bool := (wireBits bs).getLastD false

/-- CLOCK, the data clock byte (R131). -/
def clockByte : Byte := 0xAA

/-- The number of trailer pulses of a mode (R132, R160). -/
def trailerPulses : Mode → Nat
  | .a128 => 1
  | .b32 => 2
  | .a64 => 3

/-- TRAILER(m): the sum over j < k of 2^(7 − 2j), k the trailer pulses of m (R132). -/
def trailer (m : Mode) : Byte :=
  BitVec.ofNat 8 (((List.range (trailerPulses m)).map fun j => 2 ^ (7 - 2 * j)).sum)

/-- PULSES(m): the total pulses of one read frame, 25 + u(m) (R133). -/
def framePulses (m : Mode) : Nat := 25 + (modeCode m).toNat

/-- ENC_FRAME(m): the clock train of a read, six clock bytes and the trailer (R134). -/
def encFrame (m : Mode) : List Byte :=
  [clockByte, clockByte, clockByte, clockByte, clockByte, clockByte, trailer m]

/-- POLL_TX, the byte the readiness poll writes (R139). -/
def pollTx : Byte := 0x00

/-- BURST_BYTE, the byte of the reset burst (R140). -/
def burstByte : Byte := 0xFF

/-- The reset-burst frame: RESET_BYTES bytes of all ones (30_encoding.md R112). -/
def burstFrame (c : Config) : List Byte := List.replicate c.resetBytes.toNat burstByte

/-- NOT_READY(b): the byte is the not-ready sentinel (42_read.md R182). -/
def notReady (b : Byte) : Bool := b == 0xFF

/-- Result bit number `i` of a readback, i = 0 the most significant: the first bit of wire pair `i mod 4` of byte `i div 4`
(R135, R138). -/
def resultBit (rx : Readback) (i : Nat) : Bool := (rx.getD (i / 4) 0).getLsbD (7 - 2 * (i % 4))

/-- The 32-bit word with the first `n` result bits placed from bit 31 down, the others 0: `w[31 − i] := b` (R135). -/
def placeBits (rx : Readback) : Nat → Word
  | 0 => 0
  | n + 1 => placeBits rx n ||| (if resultBit rx n then BitVec.twoPow 32 (31 - n) else 0)

/-- DEC(rx): the 24 result bits in the top of a 32-bit word, then an arithmetic right shift by 8 (R135). -/
def dec (rx : Readback) : Word := (placeBits rx 24).sshiftRight 8

/-- Byte `k` of SPREAD(v): bit 7 − 2p is v[23 − 4k − p] for p in 0..3, every other bit 0 (R143). -/
def spreadByte (v : BitVec 24) (k : Nat) : Byte :=
  ((List.range 4).map fun p => if v.getLsbD (23 - 4 * k - p) then BitVec.twoPow 8 (7 - 2 * p) else 0).foldl (· ||| ·) 0

/-- SPREAD(v) ++ [x], a readback that decodes to v (R143: for tests, not a function of the block). -/
def spread (v : BitVec 24) (x : Byte) : Readback :=
  #v[spreadByte v 0, spreadByte v 1, spreadByte v 2, spreadByte v 3, spreadByte v 4, spreadByte v 5, x]

end Sys2Proof.Machine
end

