-- ==== Sys2Proof/Machine/State.lean ====
section
/-! DEFINITION. The state of the block as plain data: every register of 10_state.md R31, the ADC's adc_sel (R45), the fault
mark of 60_exceptions.md R264, and the model's own fields (which agent moves next, the environment's answers, the draw
counter, the record of what went over the ports); the reasons a step can stop; the state after reset. -/

namespace Sys2Proof.Machine

/-- PHASE, the sequencer's phase (10_state.md R37). The codes 0b101 to 0b111 are never held, so they have no constructor. -/
inductive Phase where
  | idle
  | polling
  | delaying
  | transferring
  | bursting
deriving DecidableEq, Repr

/-- CODE, the completion codes (60_exceptions.md R260, 10_state.md R38). The values 5 to 7 are never written. -/
inductive Code where
  /-- 0 OK; also what CODE is cleared to at acceptance and at block reset. -/
  | ok
  /-- 1 WOULD_BLOCK. -/
  | wouldBlock
  /-- 2 BUS_ERROR. -/
  | busError
  /-- 3 UNSUPPORTED. -/
  | unsupported
  /-- 4 ILLEGAL. -/
  | illegal
deriving DecidableEq, Repr

/-- What the outside of the block sees happen at a port; `State.log` keeps these, newest first (log entry 8). -/
inductive Event where
  /-- A host read at window offset `off` returned `v` (20_memory.md R72). -/
  | hostRead (off : Nat) (v : Word)
  /-- `BusTransfer(tx)` and its answer (00_scope.md R20). -/
  | transfer (tx : List Byte) (answer : BusAnswer (List Byte))
  /-- `BusWrite(tx)` and its answer (R20). -/
  | busWrite (tx : List Byte) (answer : BusAnswer Unit)
  /-- `Delay(ms)` (R21). -/
  | delay (ms : Nat)
  /-- A read completed OK with this value; `conv` is the tag of 42_read.md R188, the mode it was converted under. -/
  | reading (value : Word) (conv : Mode)
deriving DecidableEq, Repr

/-- Why a step stops with a fault. -/
inductive Fault where
  /-- Raised by a host access at an offset that is not in the window 0x00 to 0x1F (20_memory.md R70, R73; log entry 9).
  Safe: the model stops where the address is not the block's. -/
  | outsideWindow (off : Nat)
deriving DecidableEq, Repr

/-- Why a step is refused. -/
inductive Refusal where
  /-- Raised by `exec` for an instruction that has no meaning yet (no arm raises it now). Safe. -/
  | notModelled (mnemonic : String)
  /-- Raised by a host access that is not an aligned 32-bit access: the model "has no step" for it (20_memory.md R74).
  Safe: "refusal errs toward unprovable" (92_eei_decisions.md D3). -/
  | notAlignedWord (off size : Nat)
deriving DecidableEq, Repr

/-- The state. The first group is the registers of 10_state.md R31, in that table's order. -/
structure State where
  /-- MODE (R32): the mode whose trailer the next read frame carries. -/
  mode : Mode
  /-- LASTCMD (R33). -/
  lastCmd : Byte
  /-- BUSY (R34). -/
  busy : Bool
  /-- DONE (R35). -/
  done : Bool
  /-- VALID (R36). -/
  valid : Bool
  /-- OVERRUN (R39). -/
  overrun : Bool
  /-- CODE (R38). -/
  code : Code
  /-- PHASE (R37). -/
  phase : Phase
  /-- POLLRX (R43). -/
  pollRx : Byte
  /-- RESULT (R40). -/
  result : Word
  /-- BUSERR (R41). -/
  busErr : Word
  /-- RX[0..6] (R42). -/
  rx : Readback
  /-- The configuration, RESET_BYTES (R44) among its parameters (00_scope.md R12). -/
  cfg : Config
  /-- adc_sel (R45): the mode the ADC will apply to its next conversion. State of the ADC, not of the block. -/
  adcSel : Mode
  /-- The fault mark of 60_exceptions.md R264: the first command word dropped because the block was busy. Never cleared. -/
  overrunMark : Option Byte
  /-- The model's own: the turns still to be taken, next first (R83: all steps are totally ordered). With none left the
  block's sequencer moves. -/
  schedule : List Turn
  /-- The model's own: the environment's answers to the coming readiness polls, next first; with none left, free values. -/
  pollAnswers : List (BusAnswer Byte)
  /-- The model's own: the environment's answers to the coming read transfers. -/
  frameAnswers : List (BusAnswer Readback)
  /-- The model's own: the environment's answers to the coming reset bursts. -/
  burstAnswers : List (BusAnswer Unit)
  /-- The model's own: how many free values have been drawn. -/
  draws : Nat
  /-- The model's own: what went over the ports, newest first. -/
  log : List Event
deriving DecidableEq, Repr

/-- The machine at launch with configuration `c` and an ADC whose selection is `m`: every register of 10_state.md R31 at its
reset value (R300), nothing scheduled, nothing answered, nothing recorded. -/
def State.launch (c : Config) (m : Mode) : State :=
  { mode := .a128, lastCmd := 0x00, busy := false, done := false, valid := false, overrun := false, code := .ok,
    phase := .idle, pollRx := 0x00, result := 0, busErr := 0, rx := Vector.replicate frameLen 0, cfg := c, adcSel := m,
    overrunMark := none, schedule := [], pollAnswers := [], frameAnswers := [], burstAnswers := [], draws := 0, log := [] }

/-- The machine right after reset: the reset values of R31, the reference configuration (log entry 2), and adc_sel a draw,
as R45 says of a launch with no premise about the ADC (log entry 5). -/
def State.reset : State := State.launch Config.reference Config.launchAdcSel

/-- The machine right after reset under the launch premise that the ADC has just powered on: adc_sel = A128 (R45). -/
def State.powerOn (c : Config) : State := State.launch c .a128

end Sys2Proof.Machine
end

