-- ==== Sys2Proof/Machine/Operands.lean ====
section
/-! DEFINITION. Operands: the command byte of a host write, the window's map of offsets to registers (20_memory.md R71), byte
lanes (R75), and the transport's error value. -/

namespace Sys2Proof.Machine

/-- The command word of a write to CMD: bits 7:0; bits 31:8 are ignored (R71, R77). -/
def commandByte (v : Word) : Byte := v.extractLsb' 0 8

/-- OP of the command in progress, LASTCMD[7:4] (10_state.md R33). -/
def opOf (w : Byte) : BitVec 4 := (wordFields w).op

/-- The window offset of a host register (R71). -/
def regOffset : HostReg → Nat
  | .cmd => 0x00
  | .status => 0x04
  | .result => 0x08
  | .buserr => 0x0C
  | .rxlo => 0x10
  | .rxhi => 0x14
  | .rstlen => 0x18
  | .reserved => 0x1C

/-- The host register at a window offset, if one is there (R71). -/
def regAt (off : Nat) : Option HostReg :=
  if off = 0x00 then some .cmd
  else if off = 0x04 then some .status
  else if off = 0x08 then some .result
  else if off = 0x0C then some .buserr
  else if off = 0x10 then some .rxlo
  else if off = 0x14 then some .rxhi
  else if off = 0x18 then some .rstlen
  else if off = 0x1C then some .reserved
  else none

/-- The address of a host register in the host's address space: the window's base and the offset (R70). -/
def regAddress (c : Config) (r : HostReg) : Nat := c.base + regOffset r

/-- Byte lane `k` of a word, bits [8k+7:8k], which sits at offset off + k: little-endian (R75). -/
def byteLane (v : Word) (k : Nat) : Byte := v.extractLsb' (8 * k) 8

/-- A word from its four byte lanes, lane 0 the least significant (R71: RXLO and RXHI; R75). -/
def wordOfLanes (b0 b1 b2 b3 : Byte) : Word := b3 ++ b2 ++ b1 ++ b0

/-- zext_32(e) of an error value of `w` bits: the low `w` bits of its 32-bit carrier (60_exceptions.md R263; log entry 7). -/
def clipErr (w : Nat) (e : Word) : Word := BitVec.ofNat 32 (e.toNat % 2 ^ w)

/-- What the transport's port delivers: an error value has BUS_ERR_W bits (00_scope.md R20). -/
def portAnswer {α : Type} (w : Nat) : BusAnswer α → BusAnswer α
  | .ok a => .ok a
  | .err e => .err (clipErr w e)

end Sys2Proof.Machine
end

