-- ==== Sys2Proof/Machine/Flags.lean ====
section
/-! DEFINITION. The status flags and fields as the host reads them: the STATUS word (10_state.md R48) and the codes of PHASE
(R37) and CODE (60_exceptions.md R260). The block has no arithmetic flags (R47). -/

namespace Sys2Proof.Machine

/-- The code of a phase (R37). -/
def phaseCode : Phase → BitVec 3
  | .idle => 0b000
  | .polling => 0b001
  | .delaying => 0b010
  | .transferring => 0b011
  | .bursting => 0b100

/-- The number of a completion code (R260). -/
def codeNumber : Code → BitVec 3
  | .ok => 0
  | .wouldBlock => 1
  | .busError => 2
  | .unsupported => 3
  | .illegal => 4

/-- A flag as a 32-bit word. -/
def flagWord (b : Bool) : Word := (BitVec.ofBool b).setWidth 32

/-- The STATUS word (R48): bits 7, 11:10, 15 and 31:24 are reserved and read 0. -/
def statusWord (s : State) : Word :=
  s.pollRx.setWidth 32 <<< 16 ||| (phaseCode s.phase).setWidth 32 <<< 12 ||| (modeCode s.mode).setWidth 32 <<< 8 |||
    (codeNumber s.code).setWidth 32 <<< 4 ||| flagWord s.overrun <<< 3 ||| flagWord s.valid <<< 2 |||
    flagWord s.done <<< 1 ||| flagWord s.busy

end Sys2Proof.Machine
end

