-- ==== Sys2Proof/Machine/Ops.lean ====
section
/-! DEFINITION. The shared operations: accepting a command (60_exceptions.md R261), refusing one while busy (R264), ending one
(R262) and ending one with a bus error (R263), which are what this block has in the place of exceptions (R268: no trap
mechanism, nothing to return from); taking an answer of the environment (00_scope.md R23); the block reset
(70_reset_and_hazards.md R300); reading a host register (20_memory.md R71). -/

namespace Sys2Proof.Machine

/-- Record what went over a port. -/
def emit (e : Event) (s : State) : State := { s with log := e :: s.log }

/-- The acceptance writes of R261. -/
def acceptWrites (w : Byte) (s : State) : State :=
  { s with lastCmd := w, done := false, valid := false, overrun := false, code := .ok, result := 0, busErr := 0 }

/-- The dropped write of R264: OVERRUN is set and nothing else of the block changes; the model's fault mark keeps the first
dropped word for good. -/
def dropCommand (w : Byte) (s : State) : State :=
  { s with overrun := true, overrunMark := (match s.overrunMark with | some w₀ => some w₀ | none => some w) }

/-- `Complete(code)` (R262). -/
def complete (c : Code) (s : State) : State := { s with busy := false, done := true, code := c, phase := .idle }

/-- `raise BUS_ERROR(e)` (R263). -/
def raiseBusError (e : Word) (s : State) : State := complete .busError { s with busErr := e }

/-- A command that needs bus activity has been accepted: BUSY is set and the sequencer moves to its first phase (R261). -/
def startPhase (p : Phase) (s : State) : State := { s with busy := true, phase := p }

/-- A write of the command word `w` to CMD (R261, R266): dropped if the block is busy; else the acceptance writes and then
what the command does in its acceptance step. -/
def command (w : Byte) (body : State → State) (s : State) : State :=
  if s.busy then dropCommand w s else body (acceptWrites w s)

/-- The environment's answer to a readiness poll, and the state with that answer used up: the next listed one, else a free
value (R23). -/
def takePoll (s : State) : BusAnswer Byte × State :=
  match s.pollAnswers with
  | a :: rest => (portAnswer s.cfg.busErrW a, { s with pollAnswers := rest })
  | [] => (portAnswer s.cfg.busErrW (Config.freePoll s.draws), { s with draws := s.draws + 1 })

/-- The environment's answer to a read transfer (R23). -/
def takeFrame (s : State) : BusAnswer Readback × State :=
  match s.frameAnswers with
  | a :: rest => (portAnswer s.cfg.busErrW a, { s with frameAnswers := rest })
  | [] => (portAnswer s.cfg.busErrW (Config.freeFrame s.draws), { s with draws := s.draws + 1 })

/-- The environment's answer to a reset burst (R23). -/
def takeBurst (s : State) : BusAnswer Unit × State :=
  match s.burstAnswers with
  | a :: rest => (portAnswer s.cfg.busErrW a, { s with burstAnswers := rest })
  | [] => (portAnswer s.cfg.busErrW (Config.freeBurst s.draws), { s with draws := s.draws + 1 })

/-- `adc_sel <- draw` (42_read.md R187, 43_reset.md R223). -/
def drawAdcSel (s : State) : State := { s with adcSel := Config.freeAdcSel s.draws, draws := s.draws + 1 }

/-- The block reset (R300): every register of R31 to its reset value; RESET_BYTES and adc_sel are not changed. What the host
and the environment will still do, the record and the fault mark (R264: "no later step clears") stay. -/
def blockReset (s : State) : State :=
  { s with
    mode := .a128, lastCmd := 0x00, busy := false, done := false, valid := false, overrun := false, code := .ok,
    phase := .idle, pollRx := 0x00, result := 0, busErr := 0, rx := Vector.replicate frameLen 0 }

/-- The read value of a host register (R71). -/
def readReg (r : HostReg) (s : State) : Word :=
  match r with
  | .cmd => s.lastCmd.setWidth 32
  | .status => statusWord s
  | .result => s.result
  | .buserr => s.busErr
  | .rxlo => wordOfLanes (s.rx.getD 0 0) (s.rx.getD 1 0) (s.rx.getD 2 0) (s.rx.getD 3 0)
  | .rxhi => wordOfLanes (s.rx.getD 4 0) (s.rx.getD 5 0) (s.rx.getD 6 0) 0
  | .rstlen => s.cfg.resetBytes.setWidth 32
  | .reserved => 0

/-- The byte at window offset `a`, as a byte-addressed interconnect sees the word it lies in (R75); 0 outside the window. -/
def windowByte (a : Nat) (s : State) : Byte :=
  match regAt (4 * (a / 4)) with
  | some r => byteLane (readReg r s) (a % 4)
  | none => 0

end Sys2Proof.Machine
end

