-- ==== Sys2Proof/Machine/ModeFamily.lean ====
section
/-! DEFINITION. The SETMODE family (41_mode.md R161): select the mode for the next read frame, in the acceptance step. -/

namespace Sys2Proof.Machine

/-- `MODE <- m; Complete(OK)` (R161). -/
def selectMode (m : Mode) (s : State) : State := complete .ok { s with mode := m }

/-- SETMODE A128 (R161), word 0x10. -/
def execSetmodeA128 (s : State) : Host.Outcome State Fault Refusal := .next (command 0x10 (selectMode .a128) s)

/-- SETMODE B32 (R161), word 0x11. -/
def execSetmodeB32 (s : State) : Host.Outcome State Fault Refusal := .next (command 0x11 (selectMode .b32) s)

/-- SETMODE A64 (R161), word 0x12. -/
def execSetmodeA64 (s : State) : Host.Outcome State Fault Refusal := .next (command 0x12 (selectMode .a64) s)

end Sys2Proof.Machine
end

