-- ==== Sys2Proof/Machine/PowerFamily.lean ====
section
/-! DEFINITION. The unsupported power operations (44_power.md): both complete UNSUPPORTED in their acceptance step and make
no bus transaction (R252). -/

namespace Sys2Proof.Machine

/-- PWRDN (R250), word 0x50: `Complete(UNSUPPORTED)`. -/
def execPwrdn (s : State) : Host.Outcome State Fault Refusal := .next (command 0x50 (complete .unsupported) s)

/-- PWRUP (R251), word 0x60: `Complete(UNSUPPORTED)`. -/
def execPwrup (s : State) : Host.Outcome State Fault Refusal := .next (command 0x60 (complete .unsupported) s)

end Sys2Proof.Machine
end

