-- ==== Sys2Proof/Machine/ReadFamily.lean ====
section
/-! DEFINITION. The read pipeline (42_read.md): the commands READNB and READBLK, whose acceptance starts it, and the block
steps that carry it on: poll (R183), delay (R184), transfer (R186). -/

namespace Sys2Proof.Machine

/-- READNB (R180), word 0x20: `BUSY <- 1; phase <- POLLING`. -/
def execReadnb (s : State) : Host.Outcome State Fault Refusal := .next (command 0x20 (startPhase .polling) s)

/-- READBLK (R181), word 0x30: `BUSY <- 1; phase <- POLLING`. -/
def execReadblk (s : State) : Host.Outcome State Fault Refusal := .next (command 0x30 (startPhase .polling) s)

/-- What a not-ready poll leads to: READNB completes WOULD_BLOCK, READBLK goes on to its delay (R183). -/
def pollNotReady (s : State) : State :=
  if opOf s.lastCmd = 0x2 then complete .wouldBlock s else { s with phase := .delaying }

/-- The poll step once its answer is there (R183). A failed poll leaves POLLRX unchanged. -/
def afterPoll (a : BusAnswer Byte) (s : State) : State :=
  match a with
  | .err e => raiseBusError e s
  | .ok b =>
    if notReady b then pollNotReady { s with pollRx := b } else { s with pollRx := b, phase := .transferring }

/-- The poll step: `BusTransfer([POLL_TX])` (R183). -/
def pollStep (s : State) : State :=
  let (a, s') := takePoll s
  afterPoll a (emit (.transfer [pollTx] (a.map fun b => [b])) s')

/-- The delay step: `Delay(POLL_DELAY_MS); phase <- POLLING` (R184). -/
def delayStep (s : State) : State := emit (.delay s.cfg.pollDelayMs) { s with phase := .polling }

/-- The transfer step once its answer is there (R186, R187), with the tag of R188: the adc_sel in force before it. -/
def afterFrame (a : BusAnswer Readback) (s : State) : State :=
  match a with
  | .err e => raiseBusError e (drawAdcSel s)
  | .ok rx =>
    complete .ok
      (emit (.reading (dec rx) s.adcSel) { s with rx := rx, result := dec rx, valid := true, adcSel := s.mode })

/-- The transfer step: `BusTransfer(ENC_FRAME(MODE))` (R186). -/
def transferStep (s : State) : State :=
  let (a, s') := takeFrame s
  afterFrame a (emit (.transfer (encFrame s.mode) (a.map Vector.toList)) s')

end Sys2Proof.Machine
end

