-- ==== Sys2Proof/Machine/ResetFamily.lean ====
section
/-! DEFINITION. The RESET command (43_reset.md): the power-on-reset pulse generator. -/

namespace Sys2Proof.Machine

/-- RESET (R220), word 0x40: `BUSY <- 1; phase <- BURSTING`. -/
def execReset (s : State) : Host.Outcome State Fault Refusal := .next (command 0x40 (startPhase .bursting) s)

/-- The burst step once its answer is there (R222, R223): MODE returns to A128 only if the burst was written. -/
def afterBurst (a : BusAnswer Unit) (s : State) : State :=
  match a with
  | .err e => raiseBusError e (drawAdcSel s)
  | .ok _ => complete .ok { s with mode := .a128, adcSel := .a128 }

/-- The burst step: `BusWrite(BURST_BYTE × RESET_BYTES)` (R222). -/
def burstStep (s : State) : State :=
  let (a, s') := takeBurst s
  afterBurst a (emit (.busWrite (burstFrame s.cfg) a) s')

end Sys2Proof.Machine
end

