-- ==== Sys2Proof/Machine/Dispatch.lean ====
section
/-! DEFINITION. exec: what a write of each legal command word to CMD does in its step, one arm per row of the opcode table. -/

namespace Sys2Proof.Machine

def exec (i : Instr) (s : State) : Host.Outcome State Fault Refusal :=
  match i with
  | .setmodeA128 => Sys2Proof.Machine.execSetmodeA128 s
  | .setmodeB32 => Sys2Proof.Machine.execSetmodeB32 s
  | .setmodeA64 => Sys2Proof.Machine.execSetmodeA64 s
  | .readnb => Sys2Proof.Machine.execReadnb s
  | .readblk => Sys2Proof.Machine.execReadblk s
  | .reset => Sys2Proof.Machine.execReset s
  | .pwrdn => Sys2Proof.Machine.execPwrdn s
  | .pwrup => Sys2Proof.Machine.execPwrup s

end Sys2Proof.Machine
end

