-- ==== Sys2Proof/Machine/Illegal.lean ====
section
/-! DEFINITION. What an illegal command word does (60_exceptions.md R265): the block accepts it and completes it ILLEGAL. -/

namespace Sys2Proof.Machine

/-- An illegal word written to CMD (R265): `Complete(ILLEGAL)` in the acceptance step. -/
def execIllegal (w : Byte) (s : State) : Host.Outcome State Fault Refusal := .next (command w (complete .illegal) s)

end Sys2Proof.Machine
end

