-- ==== Sys2Proof/Machine/Window.lean ====
section
/-! DEFINITION. The host's accesses to the register window (20_memory.md R71, R72, R74, R77), the sequencer's turn, and the turn
of each agent. -/

namespace Sys2Proof.Machine

/-- A write to CMD (60_exceptions.md R261): decode the word and run the command, or complete ILLEGAL. -/
def writeCmd (v : Word) (s : State) : Host.Outcome State Fault Refusal :=
  match decode (commandByte v) with
  | .instr i => exec i s
  | .illegal _ => execIllegal (commandByte v) s

/-- `MemRead` of a register (R72): it returns the value to the host and changes no state of the block. -/
def hostRead (off : Nat) (r : HostReg) (s : State) : Host.Outcome State Fault Refusal :=
  .next (emit (.hostRead off (readReg r s)) s)

/-- `MemWrite` to a register (R71, R77): only a write to CMD has an effect. -/
def hostWrite (r : HostReg) (v : Word) (s : State) : Host.Outcome State Fault Refusal :=
  match r with
  | .cmd => writeCmd v s
  | .status | .result | .buserr | .rxlo | .rxhi | .rstlen | .reserved => .next s

/-- One host access. An access that is not an aligned 32-bit one is refused (R74); one outside the window is not the
block's (R70). -/
def hostAccess (a : HostAccess) (s : State) : Host.Outcome State Fault Refusal :=
  if !a.aligned then .refused (.notAlignedWord a.off a.size)
  else
    match regAt a.off, a with
    | none, _ => .fault (.outsideWindow a.off)
    | some r, .read off _ => hostRead off r s
    | some r, .write _ _ v => hostWrite r v s

/-- One step of the block sequencer, chosen by PHASE (10_state.md R37). An idle block waits for a CMD write
(70_reset_and_hazards.md R302). -/
def sequencerStep (s : State) : State :=
  match s.phase with
  | .idle => s
  | .polling => pollStep s
  | .delaying => delayStep s
  | .transferring => transferStep s
  | .bursting => burstStep s

/-- One reading of STATUS by the host's WAIT (30_encoding.md R115): if BUSY is 1 the host will read again, after one step of
the sequencer (log entry 10). -/
def waitTurn (s : State) : State :=
  let s' := emit (.hostRead (regOffset .status) (statusWord s)) s
  if s.busy then { s' with schedule := .sequencer :: .wait :: s.schedule } else s'

/-- The turn of an agent. -/
def takeTurn (t : Turn) (s : State) : Host.Outcome State Fault Refusal :=
  match t with
  | .access a => hostAccess a s
  | .wait => .next (waitTurn s)
  | .sequencer => .next (sequencerStep s)
  | .blockReset => .next (blockReset s)

/-- The step that takes the next scheduled turn; with none left it is the sequencer's. -/
def nextTurn (s : State) : Host.Outcome State Fault Refusal :=
  match s.schedule with
  | [] => .next (sequencerStep s)
  | t :: rest => takeTurn t { s with schedule := rest }

/-- The host's write of a command word, as the turn that runs it. -/
def commandTurn (w : Byte) : Turn := .access (.write (regOffset .cmd) 4 (w.setWidth 32))

/-- Place a command so that the very next step runs it: the block is between commands (BUSY 0, PHASE IDLE), and the host's
next access writes the word to CMD (log entry 6). -/
def placeCommand (w : Byte) (s : State) : State :=
  { s with busy := false, phase := .idle, schedule := commandTurn w :: s.schedule }

end Sys2Proof.Machine
end

