-- ==== Sys2Proof/Machine/Step.lean ====
section
/-! DEFINITION. One step of the model (00_scope.md R8: one host access, one bus transaction, one delay or one block reset), and
how a command word of the opcode table is placed for the next step. -/

namespace Sys2Proof.Machine

/-- One step: the next turn. -/
def step (s : State) : Host.Outcome State Fault Refusal := nextTurn s

/-- `s` with the command word `w` (its bits at and above `nbits` zero) placed where the next step takes its command: the
host's next access writes it to CMD of an idle block. -/
def State.withFetchWord (s : State) (nbits w : Nat) : State := placeCommand (tableByte nbits w) s

end Sys2Proof.Machine
end

