-- ==== Sys2Proof/Machine/Assembler.lean ====
section
/-! DEFINITION. The assembler of 30_encoding.md section 4: reading a line of text (R113, R114), and the host turns a line means,
pseudo-instructions expanded (R115). -/

namespace Sys2Proof.Machine

/-- The characters that part the words of a line (`WR <reg>, <value>`). -/
def isSeparator (c : Char) : Bool := c == ' ' || c == '\t' || c == ','

/-- The words of a line: `;` starts a comment (R113). `word` is the word being read, reversed. -/
def lexLine (word : List Char) : List Char → List String
  | [] => if word.isEmpty then [] else [String.ofList word.reverse]
  | c :: rest =>
    if c == ';' then (if word.isEmpty then [] else [String.ofList word.reverse])
    else if isSeparator c then
      (if word.isEmpty then lexLine [] rest else String.ofList word.reverse :: lexLine [] rest)
    else lexLine (c :: word) rest

/-- The digits of a `0x` literal in the order of their values (00_scope.md R24); small letters are the model's (log entry 18). -/
def digitRow : List Char := "0123456789ABCDEF".toList

/-- The value of a digit is its place in the row. -/
def digitValue (d : Char) : Option Nat := digitRow.idxOf? d.toUpper

/-- The value of a row of digits, most significant first; none where one of them is no digit. -/
def digitsValue (ds : List Char) : Option Nat :=
  (ds.mapM digitValue).map (List.foldl (16 * · + ·) 0)

/-- A literal `0x…` (R24) of one to `most` digits. -/
def hexLiteral (most : Nat) (word : String) : Option Nat :=
  let ds := word.toList.drop 2
  if word.toList.take 2 = ['0', 'x'] ∧ 1 ≤ ds.length ∧ ds.length ≤ most then digitsValue ds else none

/-- The assembler's name of a mode (R113). -/
def modeNamed (word : String) : Option Mode :=
  if word = "A128" then some .a128
  else if word = "B32" then some .b32
  else if word = "A64" then some .a64
  else none

/-- A host register by its name in 20_memory.md R71, or by its offset (95_test_vectors.md V-ACC-5 writes `RD 0x1C`). -/
def regNamed (word : String) : Option HostReg :=
  if word = "CMD" then some .cmd
  else if word = "STATUS" then some .status
  else if word = "RESULT" then some .result
  else if word = "BUSERR" then some .buserr
  else if word = "RXLO" then some .rxlo
  else if word = "RXHI" then some .rxhi
  else if word = "RSTLEN" then some .rstlen
  else (hexLiteral 2 word).bind regAt

/-- A mnemonic that stands alone on its line (R113, R115). -/
def bareMnemonic (word : String) : Option AsmLine :=
  if word = "READNB" then some (.command .readnb)
  else if word = "READBLK" then some (.command .readblk)
  else if word = "RESET" then some (.command .reset)
  else if word = "PWRDN" then some (.command .pwrdn)
  else if word = "PWRUP" then some (.command .pwrup)
  else if word = "WAIT" then some .wait
  else if word = "READ" then some .read
  else if word = "TRYREAD" then some .tryRead
  else if word = "ADCRESET" then some .adcReset
  else none

/-- A mnemonic and its one operand (R113 to R115). -/
def unaryMnemonic (word operand : String) : Option AsmLine :=
  if word = "SETMODE" then (modeNamed operand).map fun m => .command (setmode m)
  else if word = "SELECT" then (modeNamed operand).map .select
  else if word = "RD" then (regNamed operand).map .rd
  else if word = ".word" then (hexLiteral 2 operand).map fun n => .word (BitVec.ofNat 8 n)
  else none

/-- The line of text as a line of the assembler; none where it is blank or none of R113 to R115. -/
def parseLine (text : String) : Option AsmLine :=
  match lexLine [] text.toList with
  | [w] => bareMnemonic w
  | [w, a] => unaryMnemonic w a
  | [w, a, b] =>
    if w = "WR" then
      match regNamed a, hexLiteral 8 b with
      | some r, some v => some (.wr r (BitVec.ofNat 32 v))
      | _, _ => none
    else none
  | _ => none

/-- The host's turns a line means: a command line is `MemWrite(0x00, 4, zext_32(word))` (R113), host access lines are one
access each (R114), and pseudo-instructions expand as R115 says (SELECT's reading is discarded: it is never read). -/
def asmTurns : AsmLine → List Turn
  | .command i => [commandTurn (encode i)]
  | .word b => [commandTurn b]
  | .rd r => [.access (.read (regOffset r) 4)]
  | .wr r v => [.access (.write (regOffset r) 4 v)]
  | .wait => [.wait]
  | .read => [commandTurn (encode .readblk), .wait]
  | .tryRead => [commandTurn (encode .readnb), .wait]
  | .select m => [commandTurn (encode (setmode m)), commandTurn (encode .readblk), .wait]
  | .adcReset => [commandTurn (encode .reset), .wait]

/-- The turns of a program, line after line. -/
def programTurns (p : List AsmLine) : List Turn := p.flatMap asmTurns

end Sys2Proof.Machine
end

