-- ==== Sys2Proof/Safety.lean ====
section
/-! DEFINITION. The terms the claims use: running the machine for a number of steps, whose turn it is, the runs that keep the
single-owner contract, what an observer of the block sees, and the invariant of every step. -/

namespace Sys2Proof.Machine

/-- `k` steps, stopping at the first fault or refusal. -/
def runSteps : Nat → State → Host.Outcome State Fault Refusal
  | 0, s => .next s
  | k + 1, s =>
    match step s with
    | .next t => runSteps k t
    | .fault f => .fault f
    | .refused r => .refused r

/-- It is the sequencer's turn in `s`, and `t` is `s` with that turn taken off the schedule (a scheduled turn, or no turn
left). -/
def sequencerTurn (s t : State) : Prop :=
  (s.schedule = [] ∧ t = s) ∨ ∃ rest, s.schedule = .sequencer :: rest ∧ t = { s with schedule := rest }

/-- The host's next turn is an aligned write of `v` to CMD, and `t` is `s` with that turn taken off the schedule. -/
def writesCmd (v : Word) (s t : State) : Prop :=
  ∃ rest, s.schedule = .access (.write 0x00 4 v) :: rest ∧ t = { s with schedule := rest }

/-- No CMD write was ever dropped: the premise "no overrun" of 60_exceptions.md R264. -/
def State.safe (s : State) : Prop := s.overrunMark = none

/-- The turns of a host that only reads, waits, or writes registers other than CMD. -/
def turnHarmless : Turn → Bool
  | .access (.read off size) => (HostAccess.read off size).wf
  | .access (.write off size v) => (HostAccess.write off size v).wf && off != 0x00
  | .wait => true
  | .sequencer => false
  | .blockReset => false

/-- What of a state does not depend on the ADC's selection: all but adc_sel and the record, which holds the tags of
42_read.md R188. -/
def State.hideAdc (s : State) : State := { s with adcSel := .a128, log := [] }

/-- What of a state does not depend on the parameters of which no register depends (00_scope.md R12: all but RESET_BYTES and
BUS_ERR_W): all but the record, which holds the delays, and those parameters. -/
def State.hideParams (s : State) : State :=
  { s with
    cfg := { s.cfg with base := 0, fSck := 0, fMax := 0, pollDelayMs := 0, maxTransfer := 0, tSettle := 0 }, log := [] }

/-- The invariant: what the registers of one state have to do with each other. -/
structure Inv (s : State) : Prop where
  /-- BUSY = 1 exactly when PHASE ≠ IDLE (10_state.md R37). -/
  busy_iff_phase : s.busy = true ↔ s.phase ≠ .idle
  /-- A command in progress shows the values of its acceptance (60_exceptions.md R261). -/
  busy_shows_acceptance :
    s.busy = true → s.done = false ∧ s.valid = false ∧ s.code = .ok ∧ s.result = 0 ∧ s.busErr = 0
  /-- The sequencer polls only for a read command (42_read.md R180, R181). -/
  polling_cmd : s.phase = .polling → s.lastCmd = 0x20 ∨ s.lastCmd = 0x30
  /-- Only READBLK delays, and only after a poll that captured the sentinel (R183). -/
  delaying_cmd : s.phase = .delaying → s.lastCmd = 0x30 ∧ s.pollRx = 0xFF
  /-- A transfer follows a ready poll of a read command (R183, R185). -/
  transferring_cmd : s.phase = .transferring → (s.lastCmd = 0x20 ∨ s.lastCmd = 0x30) ∧ s.pollRx ≠ 0xFF
  /-- Only RESET writes a burst (43_reset.md R220). -/
  bursting_cmd : s.phase = .bursting → s.lastCmd = 0x40
  /-- VALID is 1 exactly when the last command was a read that completed OK (10_state.md R36). -/
  valid_iff_read_ok :
    s.valid = true ↔ s.done = true ∧ s.code = .ok ∧ (s.lastCmd = 0x20 ∨ s.lastCmd = 0x30)
  /-- RESULT is the decoded readback of that read, and else 0 (R40). -/
  valid_result : s.valid = true → s.result = dec s.rx
  invalid_result : s.valid = false → s.result = 0
  /-- BUSERR is 0 but after BUS_ERROR (R41), and has BUS_ERR_W bits. -/
  no_error_busErr : s.code ≠ .busError → s.busErr = 0
  busErr_width : s.busErr.toNat < 2 ^ s.cfg.busErrW
  /-- A code other than OK belongs to a completed command (R38). -/
  code_done : s.code ≠ .ok → s.done = true
  /-- WOULD_BLOCK is READNB's, after a poll that captured 0xFF (60_exceptions.md R260). -/
  wouldBlock_cmd : s.code = .wouldBlock → s.lastCmd = 0x20 ∧ s.pollRx = 0xFF
  /-- BUS_ERROR is READNB's, READBLK's or RESET's (R260). -/
  busError_cmd : s.code = .busError → s.lastCmd = 0x20 ∨ s.lastCmd = 0x30 ∨ s.lastCmd = 0x40
  /-- UNSUPPORTED is PWRDN's or PWRUP's (R260). -/
  unsupported_cmd : s.code = .unsupported → s.lastCmd = 0x50 ∨ s.lastCmd = 0x60
  /-- ILLEGAL is an illegal word's, and LASTCMD holds the word (R260). -/
  illegal_cmd : s.code = .illegal ↔ s.done = true ∧ (wordFields s.lastCmd).wf = false
  /-- An idle block whose DONE is 0 has completed no command since its reset (10_state.md R35). -/
  fresh : s.busy = false → s.done = false →
    s.mode = .a128 ∧ s.lastCmd = 0 ∧ s.valid = false ∧ s.overrun = false ∧ s.code = .ok ∧ s.pollRx = 0 ∧ s.result = 0 ∧
      s.busErr = 0 ∧ s.rx = Vector.replicate frameLen 0
  /-- OVERRUN is set only by a dropped write, which the fault mark keeps (R264). -/
  overrun_marked : s.overrun = true → s.overrunMark ≠ none

end Sys2Proof.Machine
end

