-- ==== Sys2Proof/Certificates/Slice0/Obligations.lean ====
section
/-! DEFINITION. The statements for the provers, each from a numbered rule of spec/ or from the sections it names. The fields
`schedule`, `pollAnswers`, `frameAnswers`, `burstAnswers`, `draws` and `log` of the states they speak of are the model's own
(log entries 1, 3, 4 and 8): no rule of spec/ is cited for them. -/

open Sys2Proof Sys2Proof.Machine

/-! ## Encodings -/

/-- R109: the eight legal words, what each decodes to, and that every other word is illegal. -/
def Obligations.EightWordsAreLegal : Prop :=
  let table : List (Byte × Instr) :=
    [(0x10, .setmodeA128), (0x11, .setmodeB32), (0x12, .setmodeA64), (0x20, .readnb), (0x30, .readblk), (0x40, .reset),
      (0x50, .pwrdn), (0x60, .pwrup)]
  (∀ row ∈ table, decode row.1 = .instr row.2 ∧ encode row.2 = row.1) ∧
    ∀ w : Byte, w ∉ table.map Prod.fst → ∃ why, decode w = .illegal why

/-- R106 and R108: decode is the inverse of encode, and a word is illegal exactly when one of the four cases of R106 holds of
its fields OP = w div 16, RSV = w div 4 mod 4, M = w mod 4. -/
def Obligations.DecodeInvertsEncode : Prop :=
  (∀ i, decode (encode i) = .instr i) ∧ (∀ w i, decode w = .instr i → encode i = w) ∧
    ∀ w : Byte,
      (∃ why, decode w = .illegal why) ↔
        (w.toNat / 16 = 0 ∨ 7 ≤ w.toNat / 16) ∨ w.toNat / 4 % 4 ≠ 0 ∨
          (2 ≤ w.toNat / 16 ∧ w.toNat / 16 ≤ 6 ∧ w.toNat % 4 ≠ 0) ∨ (w.toNat / 16 = 1 ∧ w.toNat % 4 = 3)

/-- R113: the lines of the assembler and the words they write to CMD. -/
def Obligations.AssemblerWritesCommandWords : Prop :=
  let lines : List (String × Byte) :=
    [("SETMODE A128", 0x10), ("SETMODE B32", 0x11), ("SETMODE A64", 0x12), ("READNB", 0x20), ("READBLK", 0x30),
      ("RESET", 0x40), ("PWRDN", 0x50), ("PWRUP", 0x60), (".word 0x13 ; illegal", 0x13)]
  (∀ row ∈ lines, (parseLine row.1).map asmTurns = some [.access (.write 0x00 4 (row.2.setWidth 32))]) ∧
    ∀ b : Byte, asmTurns (.word b) = [.access (.write 0x00 4 (b.setWidth 32))]

/-! ## The codec -/

/-- R133, R134: the read frame of each mode and its pulses. The counts are the spec's reading of its source (log entry 19). -/
def Obligations.ReadFramePulses : Prop :=
  (∀ m, encFrame m = [0xAA, 0xAA, 0xAA, 0xAA, 0xAA, 0xAA, trailer m] ∧ (encFrame m).length = 7 ∧
    pulses (encFrame m) = framePulses m ∧ pulses [trailer m] = framePulses m - 24) ∧
    framePulses .a128 = 25 ∧ framePulses .b32 = 26 ∧ framePulses .a64 = 27 ∧
    trailer .a128 = 0x80 ∧ trailer .b32 = 0xA0 ∧ trailer .a64 = 0xA8

/-- R141: inside a read frame every high phase lasts one wire bit, which at 20 kHz or more is below the threshold; a poll
has none; and both leave the line low. -/
def Obligations.FramesStayBelowThreshold : Prop :=
  (∀ m, (∀ n ∈ highRuns (encFrame m), n = 1) ∧ lineAfter (encFrame m) = false) ∧
    highRuns [pollTx] = [] ∧ lineAfter [pollTx] = false ∧
    ∀ f, 20000 ≤ f → exceedsThreshold 1 f = false

/-- R140: the burst is one pulse and then one high phase of 8N wire bits. -/
def Obligations.BurstIsOneLongPulse : Prop :=
  ∀ n, 1 ≤ n →
    pulses (List.replicate n burstByte) = 1 ∧ highRuns (List.replicate n burstByte) = [8 * n]

/-- R221: N_min is the least burst length whose high time exceeds T_PD; it meets the source's ceil bound; and the burst of
every configuration within its constraints exceeds the threshold. -/
def Obligations.BurstLengthIsLeast : Prop :=
  (∀ f n, exceedsThreshold (busBits n) f = true ↔ nMin f ≤ n) ∧ (∀ f, 60 * f ≤ 8000000 * nMin f) ∧
    ∀ c : Config, c.wf = true →
      exceedsThreshold (busBits (burstFrame c).length) c.fSck = true ∧ (burstFrame c).length ≤ c.maxTransfer

/-- R135: result bit number i, from the most significant, is the first bit of wire pair i mod 4 of byte i div 4, placed at bit
31 − i of a 32-bit word whose low byte is 0, which is then shifted right by 8, its sign kept. Equivalently, bit 23 − 4k − p of
the value is the first bit of pair p of byte k, and the value is the sign extension of those 24 bits. -/
def Obligations.DecodePlacesResultBits : Prop :=
  ∀ rx : Readback,
    (∃ w : Word, (∀ i < 24, w.getLsbD (31 - i) = (rx.getD (i / 4) 0).getLsbD (7 - 2 * (i % 4))) ∧
      w.extractLsb' 0 8 = 0 ∧ dec rx = w.sshiftRight 8) ∧
    (∀ k < 6, ∀ p < 4, (dec rx).getLsbD (23 - 4 * k - p) = (rx.getD k 0).getLsbD (7 - 2 * p)) ∧
      dec rx = ((dec rx).setWidth 24).signExtend 32

/-- R138, and U29: the decoder reads nothing but the first bit of each pair of bytes 0 to 5; and the source's authoritative
vector, which settles it: the second bits of its pairs (those first after a shift by one) give 0x00333333. -/
def Obligations.DecodeReadsFirstBitsOnly : Prop :=
  (∀ rx rx' : Readback,
    (∀ k < 6, ∀ p < 4, (rx.getD k 0).getLsbD (7 - 2 * p) = (rx'.getD k 0).getLsbD (7 - 2 * p)) → dec rx = dec rx') ∧
    dec #v[0x27, 0x27, 0x27, 0x27, 0x27, 0x27, 0x27] = 0x00555555 ∧
    (0x27 : Byte) <<< 1 = 0x4E ∧ dec #v[0x4E, 0x4E, 0x4E, 0x4E, 0x4E, 0x4E, 0x4E] = 0x00333333

/-- R136: the shift by 8 of a word whose low byte is 0 is division by 256 with rounding toward negative infinity, and the
sign extension of its upper 24 bits; a reading's bits 31:24 are copies of its bit 23. -/
def Obligations.ShiftIsFloorDivision : Prop :=
  (∀ w : Word, w.extractLsb' 0 8 = 0 →
    (w.sshiftRight 8).toInt = w.toInt / 256 ∧ w.sshiftRight 8 = (w.extractLsb' 8 24).signExtend 32) ∧
    ∀ rx : Readback, (placeBits rx 24).extractLsb' 0 8 = 0 ∧ dec rx = (placeBits rx 24).sshiftRight 8 ∧
      ∀ j, 24 ≤ j → j < 32 → (dec rx).getLsbD j = (dec rx).getLsbD 23

/-- R142: the readings are exactly the integers of 24-bit two's complement. -/
def Obligations.ReadingRangeIsExact : Prop :=
  (∀ rx, -2 ^ 23 ≤ (dec rx).toInt ∧ (dec rx).toInt ≤ 2 ^ 23 - 1) ∧
    ∀ z : Int, -2 ^ 23 ≤ z → z ≤ 2 ^ 23 - 1 → ∃ rx, (dec rx).toInt = z

/-- R143: SPREAD puts bit 23 − 4k − p of a value at bit 7 − 2p of byte k and zeros elsewhere, and decodes back to it. -/
def Obligations.DecodeInvertsSpread : Prop :=
  ∀ (v : BitVec 24) (x : Byte),
    (∀ k < 6, ∀ p < 4, ((spread v x).getD k 0).getLsbD (7 - 2 * p) = v.getLsbD (23 - 4 * k - p) ∧
      ((spread v x).getD k 0).getLsbD (6 - 2 * p) = false) ∧
      (spread v x).getD 6 0 = x ∧ dec (spread v x) = v.signExtend 32

/-! ## The register window -/

/-- R48: the STATUS word, field by field; reserved bits read 0; a host write to it does nothing; and it is 0 after a block
reset. -/
def Obligations.StatusWordLayout : Prop :=
  (∀ s : State,
    let w := statusWord s
    w.extractLsb' 0 1 = BitVec.ofBool s.busy ∧ w.extractLsb' 1 1 = BitVec.ofBool s.done ∧
      w.extractLsb' 2 1 = BitVec.ofBool s.valid ∧ w.extractLsb' 3 1 = BitVec.ofBool s.overrun ∧
      w.extractLsb' 4 3 = codeNumber s.code ∧ w.extractLsb' 7 1 = 0 ∧ w.extractLsb' 8 2 = modeCode s.mode ∧
      w.extractLsb' 10 2 = 0 ∧ w.extractLsb' 12 3 = phaseCode s.phase ∧ w.extractLsb' 15 1 = 0 ∧
      w.extractLsb' 16 8 = s.pollRx ∧ w.extractLsb' 24 8 = 0) ∧
    (∀ (s : State) (rest : List Turn) (v : Word), s.schedule = .access (.write 0x04 4 v) :: rest →
      step s = .next { s with schedule := rest }) ∧
    (∀ s, statusWord (blockReset s) = 0) ∧ ∀ c m, statusWord (State.launch c m) = 0

/-- R71, R72: a host read of each window offset returns the register's value and changes nothing of the block. -/
def Obligations.HostReadsReturnRegisters : Prop :=
  ∀ (s : State) (rest : List Turn) (off : Nat) (v : Word),
    (off, v) ∈
      [(0x00, s.lastCmd.setWidth 32), (0x04, statusWord s), (0x08, s.result), (0x0C, s.busErr),
        (0x10, (s.rx.getD 3 0).setWidth 32 <<< 24 ||| (s.rx.getD 2 0).setWidth 32 <<< 16 |||
          (s.rx.getD 1 0).setWidth 32 <<< 8 ||| (s.rx.getD 0 0).setWidth 32),
        (0x14, (s.rx.getD 6 0).setWidth 32 <<< 16 ||| (s.rx.getD 5 0).setWidth 32 <<< 8 ||| (s.rx.getD 4 0).setWidth 32),
        (0x18, s.cfg.resetBytes.setWidth 32), (0x1C, 0)] →
    s.schedule = .access (.read off 4) :: rest →
    step s = .next { s with schedule := rest, log := .hostRead off v :: s.log }

/-- R77: writes elsewhere than to CMD have no effect, reads of the reserved slot return 0, and bits 31:8 of a write to CMD
are ignored. -/
def Obligations.OtherWritesAreIgnored : Prop :=
  (∀ (s : State) (rest : List Turn) (off : Nat) (v : Word),
    off ∈ [0x04, 0x08, 0x0C, 0x10, 0x14, 0x18, 0x1C] → s.schedule = .access (.write off 4 v) :: rest →
    step s = .next { s with schedule := rest }) ∧
  (∀ (s : State) (rest : List Turn), s.schedule = .access (.read 0x1C 4) :: rest →
    step s = .next { s with schedule := rest, log := .hostRead 0x1C 0 :: s.log }) ∧
  ∀ (s : State) (rest : List Turn) (v v' : Word), v.extractLsb' 0 8 = v'.extractLsb' 0 8 →
    step { s with schedule := .access (.write 0x00 4 v) :: rest } =
      step { s with schedule := .access (.write 0x00 4 v') :: rest }

/-- R74: an access that is not an aligned 32-bit one has no step: it is refused. -/
def Obligations.MisalignedAccessIsRefused : Prop :=
  ∀ (s : State) (rest : List Turn) (a : HostAccess), s.schedule = .access a :: rest → ¬(a.size = 4 ∧ a.off % 4 = 0) →
    step s = .refused (.notAlignedWord a.off a.size)

/-- An aligned access outside the window faults. The model's choice (log entry 9): R70 and R73 give the block no address
there and say nothing of such an access. -/
def Obligations.AccessOutsideWindowFaults : Prop :=
  ∀ (s : State) (rest : List Turn) (a : HostAccess), s.schedule = .access a :: rest →
    a.size = 4 → a.off % 4 = 0 → 0x20 ≤ a.off → step s = .fault (.outsideWindow a.off)

/-- The only thing that stops a step is a host access the block gives no meaning to: every other step has a next state
(R278: a bus error, an illegal word or a busy block stops nothing; R74: an access that is not an aligned 32-bit one has no
step). That an aligned access at 0x20 or more stops is the model's choice (log entry 9), not the spec's. -/
def Obligations.OnlyBadAccessStops : Prop :=
  ∀ s : State,
    (∃ t, step s = .next t) ↔
      ∀ a rest, s.schedule = .access a :: rest → a.size = 4 ∧ a.off % 4 = 0 ∧ a.off < 0x20

/-- R75, R71: the bytes of the window are little-endian lanes of its words; RX[k] is the byte at 0x10 + k. -/
def Obligations.WindowIsLittleEndian : Prop :=
  ∀ s : State,
    (∀ (r : HostReg) (k : Nat), k < 4 → windowByte (regOffset r + k) s = (readReg r s).extractLsb' (8 * k) 8) ∧
      (∀ k < 7, windowByte (0x10 + k) s = s.rx.getD k 0) ∧ windowByte 0x17 s = 0

/-- R115: WAIT reads STATUS; while BUSY is 1 it will read again. That one step of the sequencer comes between two readings
is the model's choice (log entry 10). -/
def Obligations.WaitReadsStatusUntilIdle : Prop :=
  ∀ (s : State) (rest : List Turn), s.schedule = .wait :: rest →
    step s = .next
      { s with
        schedule := if s.busy then .sequencer :: .wait :: rest else rest
        log := .hostRead 0x04 (statusWord s) :: s.log }

/-! ## Commands -/

/-- A CMD write runs the instruction its low byte decodes to, on the state with that turn taken (R261); and so does a command
placed with `withFetchWord`, on a block between commands. The second clause is the model's choice (log entry 6), not the
spec's: `withFetchWord` sets BUSY to 0 and PHASE to IDLE in any state, a busy one included. -/
def Obligations.StepRunsTheDecodedCommand : Prop :=
  (∀ (v : Word) (s t : State) (i : Instr), writesCmd v s t → decode (v.extractLsb' 0 8) = .instr i → step s = exec i t) ∧
    ∀ (s : State) (n w : Nat) (i : Instr), decodeTableWord n w = some i →
      step (s.withFetchWord n w) = exec i { s with busy := false, phase := .idle }

/-- R161: what SETMODE does in an idle block, each mode; in a busy one it is dropped, so MODE keeps its value; and another word
with OP = 0x1 is not SETMODE: it completes ILLEGAL and leaves MODE unchanged. -/
def Obligations.SetmodeSelectsMode : Prop :=
  (∀ (s : State) (i : Instr) (w : Byte) (m : Mode),
    (i, w, m) ∈ [(.setmodeA128, 0x10, .a128), (.setmodeB32, 0x11, .b32), (.setmodeA64, 0x12, .a64)] →
    s.busy = false →
    decode w = .instr i ∧ exec i s = .next
      { s with
        lastCmd := w, done := true, valid := false, overrun := false, code := .ok, result := 0, busErr := 0,
        busy := false, phase := .idle, mode := m }) ∧
  (∀ (s : State) (i : Instr), i ∈ [.setmodeA128, .setmodeB32, .setmodeA64] → s.busy = true →
    ∃ mark, exec i s = .next { s with overrun := true, overrunMark := some mark }) ∧
  ∀ (v : Word) (s t : State), writesCmd v s t → s.busy = false →
    (v.extractLsb' 0 8).toNat / 16 = 1 → v.extractLsb' 0 8 ∉ [0x10, 0x11, 0x12] →
    ∃ u, step s = .next u ∧ u.code = .illegal ∧ u.mode = s.mode

/-- R261, R180, R181, R220: the commands that need the bus start in an idle block; their steps follow. -/
def Obligations.BusCommandsStart : Prop :=
  ∀ (s : State) (i : Instr) (w : Byte) (p : Phase),
    (i, w, p) ∈ [(.readnb, 0x20, .polling), (.readblk, 0x30, .polling), (.reset, 0x40, .bursting)] →
    s.busy = false →
    exec i s = .next
      { s with
        lastCmd := w, done := false, valid := false, overrun := false, code := .ok, result := 0, busErr := 0,
        busy := true, phase := p }

/-- R250, R251, R252: PWRDN and PWRUP in an idle block, and in a busy one, where they are dropped: no bus transaction in
either; their neighbours are illegal words. -/
def Obligations.PowerCommandsAreUnsupported : Prop :=
  (∀ (s : State) (i : Instr) (w : Byte), (i, w) ∈ [(.pwrdn, 0x50), (.pwrup, 0x60)] → s.busy = false →
    decode w = .instr i ∧ exec i s = .next
      { s with
        lastCmd := w, done := true, valid := false, overrun := false, code := .unsupported, result := 0, busErr := 0,
        busy := false, phase := .idle }) ∧
  (∀ (s : State) (i : Instr), i ∈ [.pwrdn, .pwrup] → s.busy = true →
    ∃ mark, exec i s = .next { s with overrun := true, overrunMark := some mark }) ∧
  ∀ w : Byte, w.toNat / 16 = 5 ∨ w.toNat / 16 = 6 → w.toNat % 16 ≠ 0 → ∃ why, decode w = .illegal why

/-- R261 (with R265): a write to CMD, by the word's decoding. -/
def Obligations.AcceptanceFollowsTheRule : Prop :=
  ∀ (v : Word) (s t : State), writesCmd v s t →
    let w := v.extractLsb' 0 8
    let accepted : State :=
      { t with lastCmd := w, done := false, valid := false, overrun := false, code := .ok, result := 0, busErr := 0 }
    let completed (c : Code) (u : State) : State := { u with busy := false, done := true, code := c, phase := .idle }
    (s.busy = true → ∃ mark, step s = .next { t with overrun := true, overrunMark := some mark }) ∧
      (s.busy = false →
        ((∃ why, decode w = .illegal why) → step s = .next (completed .illegal accepted)) ∧
        (∀ m, decode w = .instr (setmode m) → step s = .next (completed .ok { accepted with mode := m })) ∧
        (decode w = .instr .pwrdn → step s = .next (completed .unsupported accepted)) ∧
        (decode w = .instr .pwrup → step s = .next (completed .unsupported accepted)) ∧
        (decode w = .instr .readnb → step s = .next { accepted with busy := true, phase := .polling }) ∧
        (decode w = .instr .readblk → step s = .next { accepted with busy := true, phase := .polling }) ∧
        (decode w = .instr .reset → step s = .next { accepted with busy := true, phase := .bursting }))

/-- R264: a CMD write to a busy block, legal word or not, is dropped: OVERRUN is set, the mark keeps the first dropped word,
nothing else changes. OVERRUN then stays until an accepted command or a block reset clears it; nothing clears the mark.
That the mark holds the word itself is log entry 12. -/
def Obligations.BusyWriteIsDropped : Prop :=
  (∀ (v : Word) (s t : State), writesCmd v s t → s.busy = true →
    step s = .next
      { t with overrun := true, overrunMark := some (s.overrunMark.getD (v.extractLsb' 0 8)) }) ∧
  (∀ (s t : State) (w : Byte), step s = .next t → s.overrunMark = some w → t.overrunMark = some w) ∧
  (∀ (v : Word) (s t : State), writesCmd v s t → s.busy = false → ∃ u, step s = .next u ∧ u.overrun = false) ∧
  ∀ s t : State, step s = .next t → s.overrun = true → t.overrun = false →
    (s.busy = false ∧ ∃ v u, writesCmd v s u) ∨ ∃ rest, s.schedule = .blockReset :: rest

/-- R264 for each command: in a busy block it only sets OVERRUN and the mark, which keeps the first dropped word. That the mark
holds the word itself is log entry 12. -/
def Obligations.BusyBlockRefusesCommands : Prop :=
  ∀ (i : Instr) (s : State), s.busy = true →
    exec i s = .next { s with overrun := true, overrunMark := some (s.overrunMark.getD (encode i)) }

/-! ## The block's steps -/

/-- The answer a transaction gets is the environment's next one, or a free value where none is listed, the same for the three
kinds of transaction; an error value has BUS_ERR_W bits. The spec gives only that any answer may come, and the error's width
(R23, R20); the lists of answers, the free values and the counter they are applied to are the model's choice (log entry 3),
and so is the 32-bit carrier of which the port keeps the low BUS_ERR_W bits (log entry 7). -/
def Obligations.AnswersComeFromTheEnvironment : Prop :=
  (∀ (s : State) (a : BusAnswer Byte) (rest : List (BusAnswer Byte)), s.pollAnswers = a :: rest →
    takePoll s = (portAnswer s.cfg.busErrW a, { s with pollAnswers := rest })) ∧
  (∀ s : State, s.pollAnswers = [] →
    takePoll s = (portAnswer s.cfg.busErrW (Config.freePoll s.draws), { s with draws := s.draws + 1 })) ∧
  (∀ (s : State) (a : BusAnswer Readback) (rest : List (BusAnswer Readback)), s.frameAnswers = a :: rest →
    takeFrame s = (portAnswer s.cfg.busErrW a, { s with frameAnswers := rest })) ∧
  (∀ s : State, s.frameAnswers = [] →
    takeFrame s = (portAnswer s.cfg.busErrW (Config.freeFrame s.draws), { s with draws := s.draws + 1 })) ∧
  (∀ (s : State) (a : BusAnswer Unit) (rest : List (BusAnswer Unit)), s.burstAnswers = a :: rest →
    takeBurst s = (portAnswer s.cfg.busErrW a, { s with burstAnswers := rest })) ∧
  (∀ s : State, s.burstAnswers = [] →
    takeBurst s = (portAnswer s.cfg.busErrW (Config.freeBurst s.draws), { s with draws := s.draws + 1 })) ∧
  ∀ (w : Nat) (e : Word),
    ∃ e', (portAnswer w (.err e) : BusAnswer Byte) = .err e' ∧ e'.toNat = e.toNat % 2 ^ w ∧
      ∀ b : Byte, portAnswer w (.ok b) = .ok b

/-- R183: the poll step, by the environment's answer. -/
def Obligations.PollStepFollowsTheRule : Prop :=
  ∀ s t u : State, s.phase = .polling → sequencerTurn s t →
    (∀ e, takePoll t = (.err e, u) →
      step s = .next
        { u with
          busErr := e, busy := false, done := true, code := .busError, phase := .idle,
          log := .transfer [0x00] (.err e) :: u.log }) ∧
    (∀ b, takePoll t = (.ok b, u) → b ≠ 0xFF →
      step s = .next { u with pollRx := b, phase := .transferring, log := .transfer [0x00] (.ok [b]) :: u.log }) ∧
    (takePoll t = (.ok 0xFF, u) → s.lastCmd.extractLsb' 4 4 = 0x2 →
      step s = .next
        { u with
          pollRx := 0xFF, busy := false, done := true, code := .wouldBlock, phase := .idle,
          log := .transfer [0x00] (.ok [0xFF]) :: u.log }) ∧
    (takePoll t = (.ok 0xFF, u) → s.lastCmd.extractLsb' 4 4 ≠ 0x2 →
      step s = .next { u with pollRx := 0xFF, phase := .delaying, log := .transfer [0x00] (.ok [0xFF]) :: u.log })

/-- R184: the delay step. -/
def Obligations.DelayStepPollsAgain : Prop :=
  ∀ s t : State, s.phase = .delaying → sequencerTurn s t →
    step s = .next { t with phase := .polling, log := .delay s.cfg.pollDelayMs :: s.log }

/-- R186 (with R187 and R188): the transfer step, by the environment's answer; and that MODE does not change while a command
is in progress. -/
def Obligations.TransferStepFollowsTheRule : Prop :=
  (∀ s t u : State, s.phase = .transferring → sequencerTurn s t →
    (∀ e, takeFrame t = (.err e, u) → ∃ m,
      step s = .next
        { u with
          adcSel := m, draws := u.draws + 1, busErr := e, busy := false, done := true, code := .busError, phase := .idle,
          log := .transfer (encFrame s.mode) (.err e) :: u.log }) ∧
    (∀ rx, takeFrame t = (.ok rx, u) →
      step s = .next
        { u with
          rx := rx, result := dec rx, valid := true, adcSel := s.mode, busy := false, done := true, code := .ok,
          phase := .idle,
          log := .reading (dec rx) s.adcSel :: .transfer (encFrame s.mode) (.ok rx.toList) :: u.log })) ∧
  ∀ s t : State, step s = .next t → s.busy = true → t.busy = true → t.mode = s.mode ∧ t.lastCmd = s.lastCmd

/-- R222, R223: the burst step, by the environment's answer. -/
def Obligations.BurstStepFollowsTheRule : Prop :=
  ∀ s t u : State, s.phase = .bursting → sequencerTurn s t →
    (∀ e, takeBurst t = (.err e, u) → ∃ m,
      step s = .next
        { u with
          adcSel := m, draws := u.draws + 1, busErr := e, busy := false, done := true, code := .busError, phase := .idle,
          log := .busWrite (List.replicate s.cfg.resetBytes.toNat 0xFF) (.err e) :: u.log }) ∧
    (takeBurst t = (.ok (), u) →
      step s = .next
        { u with
          mode := .a128, adcSel := .a128, busy := false, done := true, code := .ok, phase := .idle,
          log := .busWrite (List.replicate s.cfg.resetBytes.toNat 0xFF) (.ok ()) :: u.log })

/-- R191: READNB's poll step completes WOULD_BLOCK if and only if the poll returned Ok([0xFF]). -/
def Obligations.WouldBlockIffSentinel : Prop :=
  ∀ s t : State, Inv s → s.phase = .polling → s.lastCmd = 0x20 → sequencerTurn s t →
    ∃ u, step s = .next u ∧ (u.code = .wouldBlock ↔ (takePoll t).1 = .ok 0xFF)

/-- R300: the block-reset step: every register of R31 to its reset value; the configuration and adc_sel as before, and the
mark and the model's own fields too (log entry 11). -/
def Obligations.BlockResetClearsRegisters : Prop :=
  ∀ (s : State) (rest : List Turn), s.schedule = .blockReset :: rest →
    step s = .next
      { s with
        mode := .a128, lastCmd := 0x00, busy := false, done := false, valid := false, overrun := false, code := .ok,
        phase := .idle, pollRx := 0x00, result := 0, busErr := 0, rx := #v[0, 0, 0, 0, 0, 0, 0], schedule := rest }

/-- R301: what the host reads after a block reset. -/
def Obligations.HostReadsZeroAfterBlockReset : Prop :=
  ∀ (s : State) (rest : List Turn), s.schedule = .blockReset :: rest →
    ∃ t, step s = .next t ∧ readReg .status t = 0x00000000 ∧ readReg .cmd t = 0 ∧ readReg .result t = 0 ∧
      readReg .buserr t = 0 ∧ readReg .rxlo t = 0 ∧ readReg .rxhi t = 0 ∧
      readReg .rstlen t = s.cfg.resetBytes.setWidth 32

/-! ## Whole commands -/

/-- R180: READNB from an idle block to its completion, by what the poll and the transfer answer. The listed answers and the
carrier of the error value are the model's choice (log entries 3 and 7). -/
def Obligations.ReadnbRunsToCompletion : Prop :=
  ∀ (s : State) (ps : List (BusAnswer Byte)) (fs : List (BusAnswer Readback)),
    s.busy = false → s.schedule = [.access (.write 0x00 4 0x20)] →
    let started : State :=
      { s with
        lastCmd := 0x20, done := true, valid := false, overrun := false, code := .ok, result := 0, busErr := 0,
        phase := .idle, schedule := [], pollAnswers := ps }
    (s.pollAnswers = .ok 0xFF :: ps →
      runSteps 2 s = .next
        { started with code := .wouldBlock, pollRx := 0xFF, log := .transfer [0x00] (.ok [0xFF]) :: s.log }) ∧
    (∀ e, s.pollAnswers = .err e :: ps →
      runSteps 2 s = .next
        { started with
          code := .busError, busErr := clipErr s.cfg.busErrW e,
          log := .transfer [0x00] (.err (clipErr s.cfg.busErrW e)) :: s.log }) ∧
    (∀ b rx, s.pollAnswers = .ok b :: ps → b ≠ 0xFF → s.frameAnswers = .ok rx :: fs →
      runSteps 3 s = .next
        { started with
          valid := true, pollRx := b, rx := rx, result := dec rx, adcSel := s.mode, frameAnswers := fs,
          log :=
            .reading (dec rx) s.adcSel :: .transfer (encFrame s.mode) (.ok rx.toList) :: .transfer [0x00] (.ok [b]) ::
              s.log }) ∧
    (∀ b e, s.pollAnswers = .ok b :: ps → b ≠ 0xFF → s.frameAnswers = .err e :: fs →
      ∃ m, runSteps 3 s = .next
        { started with
          code := .busError, busErr := clipErr s.cfg.busErrW e, pollRx := b, adcSel := m, draws := s.draws + 1,
          frameAnswers := fs,
          log :=
            .transfer (encFrame s.mode) (.err (clipErr s.cfg.busErrW e)) :: .transfer [0x00] (.ok [b]) :: s.log })

/-- R181, R321: READBLK after any number n of not-ready polls: 2 + 2n steps after its acceptance it completes OK with the
decoded reading; each round is one poll and one delay. The listed answers are the model's choice (log entry 3). -/
def Obligations.ReadblkCompletesWhenReady : Prop :=
  ∀ (n : Nat) (s : State) (b : Byte) (rx : Readback) (ps : List (BusAnswer Byte)) (fs : List (BusAnswer Readback)),
    s.busy = false → s.schedule = [.access (.write 0x00 4 0x30)] →
    s.pollAnswers = List.replicate n (.ok 0xFF) ++ .ok b :: ps → b ≠ 0xFF → s.frameAnswers = .ok rx :: fs →
    runSteps (1 + (2 + 2 * n)) s = .next
      { s with
        lastCmd := 0x30, done := true, valid := true, overrun := false, code := .ok, result := dec rx, busErr := 0,
        phase := .idle, schedule := [], pollAnswers := ps, frameAnswers := fs, pollRx := b, rx := rx, adcSel := s.mode,
        log :=
          .reading (dec rx) s.adcSel :: .transfer (encFrame s.mode) (.ok rx.toList) :: .transfer [0x00] (.ok [b]) ::
            ((List.replicate n [Event.delay s.cfg.pollDelayMs, .transfer [0x00] (.ok [0xFF])]).flatten ++ s.log) }

/-- R190: READBLK has no bound on its poll rounds: however many polls answer 0xFF, it is still in progress after them, with
nothing completed. The listed answers are the model's choice (log entry 3). -/
def Obligations.ReadblkHasNoTimeout : Prop :=
  ∀ (n : Nat) (s : State) (ps : List (BusAnswer Byte)),
    s.busy = true → s.phase = .polling → s.lastCmd = 0x30 → s.schedule = [] →
    s.pollAnswers = List.replicate n (.ok 0xFF) ++ ps →
    ∀ k ≤ 2 * n, ∃ t, runSteps k s = .next t ∧ t.busy = true ∧ t.done = s.done ∧
      (t.phase = .polling ∨ t.phase = .delaying)

/-- A READBLK whose poll fails, or whose transfer fails after a ready poll, ends with BUS_ERROR and the error value, after any
number n of not-ready rounds (R181, R189). After a failed poll adc_sel is as before; after a failed transfer it is a draw
(R187). The listed answers and the carrier of the error value are the model's choice (log entries 3 and 7). -/
def Obligations.ReadblkEndsOnBusError : Prop :=
  let failed (s t : State) (e : Word) : Prop :=
    t.busy = false ∧ t.done = true ∧ t.code = .busError ∧ t.busErr.toNat = e.toNat % 2 ^ s.cfg.busErrW % 2 ^ 32 ∧
      t.valid = false ∧ t.result = 0 ∧ t.rx = s.rx ∧ t.mode = s.mode
  (∀ (n : Nat) (s : State) (e : Word) (ps : List (BusAnswer Byte)),
    s.busy = false → s.schedule = [.access (.write 0x00 4 0x30)] →
    s.pollAnswers = List.replicate n (.ok 0xFF) ++ .err e :: ps →
    ∃ t, runSteps (2 + 2 * n) s = .next t ∧ failed s t e ∧ t.adcSel = s.adcSel ∧ t.pollAnswers = ps) ∧
  ∀ (n : Nat) (s : State) (b : Byte) (e : Word) (ps : List (BusAnswer Byte)) (fs : List (BusAnswer Readback)),
    s.busy = false → s.schedule = [.access (.write 0x00 4 0x30)] →
    s.pollAnswers = List.replicate n (.ok 0xFF) ++ .ok b :: ps → b ≠ 0xFF → s.frameAnswers = .err e :: fs →
    ∃ t, runSteps (3 + 2 * n) s = .next t ∧ failed s t e ∧ t.pollRx = b ∧ t.pollAnswers = ps ∧ t.frameAnswers = fs

/-- R180, R220: whatever the environment answers, every command in progress but READBLK ends within two block steps. -/
def Obligations.OtherCommandsEndInTwoSteps : Prop :=
  ∀ s : State, Inv s → s.busy = true → s.lastCmd ≠ 0x30 → s.schedule = [] →
    ∃ k ≤ 2, ∃ t, runSteps k s = .next t ∧ t.busy = false ∧ t.done = true ∧ t.lastCmd = s.lastCmd

/-- R220: RESET from an idle block to its completion. The listed answers and the carrier of the error value are the model's
choice (log entries 3 and 7). -/
def Obligations.ResetRunsToCompletion : Prop :=
  ∀ (s : State) (bs : List (BusAnswer Unit)),
    s.busy = false → s.schedule = [.access (.write 0x00 4 0x40)] →
    let started : State :=
      { s with
        lastCmd := 0x40, done := true, valid := false, overrun := false, code := .ok, result := 0, busErr := 0,
        phase := .idle, schedule := [], burstAnswers := bs }
    (s.burstAnswers = .ok () :: bs →
      runSteps 2 s = .next
        { started with
          mode := .a128, adcSel := .a128,
          log := .busWrite (List.replicate s.cfg.resetBytes.toNat 0xFF) (.ok ()) :: s.log }) ∧
    (∀ e, s.burstAnswers = .err e :: bs →
      ∃ m, runSteps 2 s = .next
        { started with
          code := .busError, busErr := clipErr s.cfg.busErrW e, adcSel := m, draws := s.draws + 1,
          log :=
            .busWrite (List.replicate s.cfg.resetBytes.toNat 0xFF) (.err (clipErr s.cfg.busErrW e)) :: s.log })

/-- R225: any number of RESET commands that all complete OK leaves MODE and adc_sel at A128, whatever they were before. The
listed answers are the model's choice (log entry 3). -/
def Obligations.ResetsAreIdempotent : Prop :=
  ∀ (n : Nat) (s : State) (bs : List (BusAnswer Unit)),
    1 ≤ n → s.busy = false →
    s.schedule = (List.replicate n [Turn.access (.write 0x00 4 0x40), .sequencer]).flatten →
    s.burstAnswers = List.replicate n (.ok ()) ++ bs →
    ∃ t, runSteps (2 * n) s = .next t ∧ t.mode = .a128 ∧ t.adcSel = .a128 ∧ t.busy = false ∧ t.done = true ∧
      t.code = .ok ∧ t.rx = s.rx ∧ t.pollRx = s.pollRx

/-- R163: after SETMODE m the next OK read returns a value converted under the previous selection, and the one after it a
value converted under m. The listed answers are the model's choice (log entry 3). -/
def Obligations.ModeReachesTheSecondRead : Prop :=
  ∀ (s : State) (m : Mode) (b₁ b₂ : Byte) (rx₁ rx₂ : Readback) (ps : List (BusAnswer Byte))
    (fs : List (BusAnswer Readback)),
    s.busy = false → b₁ ≠ 0xFF → b₂ ≠ 0xFF →
    s.schedule =
      [.access (.write 0x00 4 ((encode (setmode m)).setWidth 32)), .access (.write 0x00 4 0x20), .sequencer, .sequencer,
        .access (.write 0x00 4 0x20), .sequencer, .sequencer] →
    s.pollAnswers = .ok b₁ :: .ok b₂ :: ps → s.frameAnswers = .ok rx₁ :: .ok rx₂ :: fs →
    ∃ t u, runSteps 4 s = .next t ∧ t.log.head? = some (.reading (dec rx₁) s.adcSel) ∧ t.adcSel = m ∧
      runSteps 3 t = .next u ∧ u.log.head? = some (.reading (dec rx₂) m) ∧ u.result = dec rx₂ ∧ u.mode = m

/-! ## The whole machine -/

/-- The invariant holds at reset, and at launch with any configuration and any ADC selection. -/
def Obligations.LaunchMeetsTheInvariant : Prop := Inv State.reset ∧ ∀ c m, Inv (State.launch c m)

/-- The invariant (R35 to R41, R260) is kept by every step of every agent, from every state that meets it. -/
def Obligations.EveryStepKeepsTheInvariant : Prop := ∀ s t : State, Inv s → step s = .next t → Inv t

/-- R40: in a state that meets the invariant RESULT, read as a signed integer, is a 24-bit value. -/
def Obligations.ResultIsA24BitValue : Prop :=
  ∀ s : State, Inv s → -2 ^ 23 ≤ s.result.toInt ∧ s.result.toInt ≤ 2 ^ 23 - 1

/-- R32: MODE changes only by an accepted SETMODE, a burst that was written, or a block reset. -/
def Obligations.ModeHasThreeWriters : Prop :=
  ∀ s t : State, step s = .next t → t.mode ≠ s.mode →
    (∃ v u, writesCmd v s u ∧ s.busy = false ∧ decode (v.extractLsb' 0 8) = .instr (setmode t.mode)) ∨
      (∃ u, sequencerTurn s u ∧ s.phase = .bursting ∧ (takeBurst u).1 = .ok () ∧ t.mode = .a128) ∨
      ((∃ rest, s.schedule = .blockReset :: rest) ∧ t.mode = .a128)

/-- R45: adc_sel changes only in a transfer step or a burst step. -/
def Obligations.AdcSelHasTwoWriters : Prop :=
  ∀ s t : State, step s = .next t → t.adcSel ≠ s.adcSel →
    (∃ u, sequencerTurn s u) ∧ (s.phase = .transferring ∨ s.phase = .bursting)

/-- R42, R43: RX changes only by a transfer that succeeded, POLLRX only by a poll that succeeded, and both by a block
reset. -/
def Obligations.ReadbackHasOneWriter : Prop :=
  ∀ s t : State, step s = .next t → (¬∃ rest, s.schedule = .blockReset :: rest) →
    (t.rx ≠ s.rx → s.phase = .transferring ∧ ∃ u, sequencerTurn s u ∧ (takeFrame u).1 = .ok t.rx) ∧
      (t.pollRx ≠ s.pollRx → s.phase = .polling ∧ ∃ u, sequencerTurn s u ∧ (takePoll u).1 = .ok t.pollRx)

/-- R12: no step changes the configuration. -/
def Obligations.ConfigurationIsFixed : Prop := ∀ s t : State, step s = .next t → t.cfg = s.cfg

/-- R81, R84: one step makes at most one transaction or delay, and a transaction is one of the three kinds of R81. -/
def Obligations.OneTransactionPerStep : Prop :=
  ∀ s t : State, step s = .next t →
    t.log = s.log ∨ (∃ off v, t.log = .hostRead off v :: s.log) ∨
      (s.phase = .delaying ∧ t.log = .delay s.cfg.pollDelayMs :: s.log) ∨
      (s.phase = .polling ∧ ∃ a, t.log = .transfer [0x00] a :: s.log) ∨
      (s.phase = .transferring ∧ ∃ a, t.log = .transfer (encFrame s.mode) a :: s.log) ∨
      (s.phase = .transferring ∧
        ∃ rx, t.log = .reading (dec rx) s.adcSel :: .transfer (encFrame s.mode) (.ok rx.toList) :: s.log) ∨
      (s.phase = .bursting ∧ ∃ a, t.log = .busWrite (List.replicate s.cfg.resetBytes.toNat 0xFF) a :: s.log)

/-- R78, R80, R85: reads, WAIT and writes elsewhere than to CMD, any number of them, change nothing of an idle block, so the
host reads what the completion wrote. -/
def Obligations.ReadingChangesNothing : Prop :=
  ∀ s : State, s.busy = false → (∀ turn ∈ s.schedule, turnHarmless turn = true) →
    ∃ reads, runSteps s.schedule.length s = .next { s with schedule := [], log := reads ++ s.log }

/-- R188: what the block does never depends on adc_sel: two states that differ in it alone step alike. -/
def Obligations.AdcSelDoesNotInterfere : Prop :=
  ∀ (s t : State) (m : Mode), step s = .next t →
    ∃ u, step { s with adcSel := m } = .next u ∧ u.hideAdc = t.hideAdc

/-- R184, R70, R320: no register depends on BASE, F_SCK, F_MAX, POLL_DELAY_MS, MAX_TRANSFER or T_SETTLE: two states that
differ in those alone step alike. -/
def Obligations.ParametersDoNotInterfere : Prop :=
  ∀ (s t : State) (c : Config), c.resetBytes = s.cfg.resetBytes → c.busErrW = s.cfg.busErrW → step s = .next t →
    ∃ u, step { s with cfg := c } = .next u ∧ u.hideParams = t.hideParams
end

