-- ==== Sys2Proof/Laws/Codec.lean ====
section
/-! SUPPORT. The codec's functions bit by bit: the placed word, the decoder, SPREAD, the wire bits of a burst, and the
threshold comparison. -/

namespace Sys2Proof.Machine

/-- A level of `bits` wire bits exceeds T_PD exactly when 60 × F_SCK < bits × 10^6 (R221). -/
theorem exceedsThreshold_iff (bits f : Nat) : exceedsThreshold bits f = true ↔ 60 * f < bits * 1000000 := by
  unfold exceedsThreshold tPd; exact decide_eq_true_iff

/-- Bit j of the placed word is result bit 31 − j if that one has been placed, and else 0 (R135). -/
theorem placeBits_getLsbD (rx : Readback) (n j : Nat) (hn : n ≤ 24) :
    (placeBits rx n).getLsbD j = (decide (32 - n ≤ j ∧ j < 32) && resultBit rx (31 - j)) := by
  induction n with
  | zero => simp [placeBits]
  | succ n ih =>
    rw [placeBits, BitVec.getLsbD_or, ih (by omega)]
    by_cases hj : j = 31 - n
    · subst hj
      have hback : 31 - (31 - n) = n := by omega
      have hin : 32 - (n + 1) ≤ 31 - n ∧ 31 - n < 32 := by omega
      have hout : ¬(32 - n ≤ 31 - n ∧ 31 - n < 32) := by omega
      have hlt : 31 - n < 32 := by omega
      rw [hback, decide_eq_false hout, decide_eq_true hin]
      cases resultBit rx n <;> simp [hlt]
    · have hsame : (32 - n ≤ j ∧ j < 32) ↔ (32 - (n + 1) ≤ j ∧ j < 32) := by omega
      simp only [hsame]
      split <;> simp [BitVec.getLsbD_twoPow]
      intro _ h; omega

/-- Bit j of a reading: result bit 23 − j below bit 24, and copies of the sign above (R135, R136). -/
theorem dec_getLsbD (rx : Readback) (j : Nat) :
    (dec rx).getLsbD j = (decide (j < 32) && if j < 24 then resultBit rx (23 - j) else resultBit rx 0) := by
  unfold dec
  rw [BitVec.getLsbD_sshiftRight]
  by_cases h : j < 32
  · have hin : ¬32 ≤ j := by omega
    by_cases h24 : j < 24
    · have hlow : 8 + j < 32 := by omega
      have hidx : 31 - (8 + j) = 23 - j := by omega
      simp only [hin, h, h24, hlow, placeBits_getLsbD rx 24 (8 + j) (le_refl _), hidx]
      simp
    · have hhigh : ¬8 + j < 32 := by omega
      simp only [hin, h, h24, hhigh, BitVec.msb_eq_getLsbD_last, placeBits_getLsbD rx 24 _ (le_refl _)]
      simp
  · have hout : 32 ≤ j := by omega
    simp [hout, h]

/-- The bits of one byte of SPREAD (R143). -/
theorem spreadByte_bits (v : BitVec 24) (k p : Nat) (hp : p < 4) :
    (spreadByte v k).getLsbD (7 - 2 * p) = v.getLsbD (23 - 4 * k - p) ∧
      (spreadByte v k).getLsbD (6 - 2 * p) = false := by
  simp only [spreadByte, List.range, List.range.loop, List.map, List.foldl]
  generalize hf : (fun p => v.getLsbD (23 - 4 * k - p)) = f
  have hbit : ∀ p, v.getLsbD (23 - 4 * k - p) = f p := fun p => by rw [← hf]
  simp only [hbit]
  interval_cases p <;> (cases f 0 <;> cases f 1 <;> cases f 2 <;> cases f 3 <;> decide)

/-- Byte k of SPREAD(v) ++ [x], for the six data bytes. -/
theorem spread_getD (v : BitVec 24) (x : Byte) (k : Nat) (hk : k < 6) : (spread v x).getD k 0 = spreadByte v k := by
  interval_cases k <;> rfl

/-- Result bit i of SPREAD(v) ++ [x] is bit 23 − i of v. -/
theorem resultBit_spread (v : BitVec 24) (x : Byte) (i : Nat) (hi : i < 24) :
    resultBit (spread v x) i = v.getLsbD (23 - i) := by
  unfold resultBit
  rw [spread_getD _ _ _ (by omega), (spreadByte_bits v _ _ (by omega)).1]
  congr 1; omega

/-- The wire bits of a burst of n bytes are 8n ones (R112, R140). -/
theorem wireBits_burst (n : Nat) : wireBits (List.replicate n burstByte) = List.replicate (8 * n) true := by
  induction n with
  | zero => rfl
  | succ n ih =>
    simp only [wireBits, List.replicate_succ, List.flatMap_cons] at *
    rw [ih, show 8 * (n + 1) = 8 + 8 * n by ring, List.replicate_add]; rfl

/-- A line that stays high makes no further pulse (R130). -/
theorem pulsesFrom_high (n : Nat) : pulsesFrom true (List.replicate n true) = 0 := by
  induction n with
  | zero => rfl
  | succ n ih => simp [List.replicate_succ, pulsesFrom, ih]

/-- A line that stays high is one high phase. -/
theorem highRunsFrom_high (k n : Nat) (h : 0 < k + n) : highRunsFrom k (List.replicate n true) = [k + n] := by
  induction n generalizing k with
  | zero => simp [highRunsFrom]; omega
  | succ n ih => simp only [List.replicate_succ, highRunsFrom]; rw [ih _ (by omega)]; congr 1; omega

end Sys2Proof.Machine
end

