-- ==== Sys2Proof/Laws/State.lean ====
section
/-! SUPPORT. One lemma per field of State and per shared update of it, true by rfl, so that no later proof unfolds a record
update; and what the launch state holds. -/

namespace Sys2Proof.Machine

@[simp] theorem emit_mode (e : Event) (s : State) : (emit e s).mode = s.mode := rfl
@[simp] theorem emit_lastCmd (e : Event) (s : State) : (emit e s).lastCmd = s.lastCmd := rfl
@[simp] theorem emit_busy (e : Event) (s : State) : (emit e s).busy = s.busy := rfl
@[simp] theorem emit_done (e : Event) (s : State) : (emit e s).done = s.done := rfl
@[simp] theorem emit_valid (e : Event) (s : State) : (emit e s).valid = s.valid := rfl
@[simp] theorem emit_overrun (e : Event) (s : State) : (emit e s).overrun = s.overrun := rfl
@[simp] theorem emit_code (e : Event) (s : State) : (emit e s).code = s.code := rfl
@[simp] theorem emit_phase (e : Event) (s : State) : (emit e s).phase = s.phase := rfl
@[simp] theorem emit_pollRx (e : Event) (s : State) : (emit e s).pollRx = s.pollRx := rfl
@[simp] theorem emit_result (e : Event) (s : State) : (emit e s).result = s.result := rfl
@[simp] theorem emit_busErr (e : Event) (s : State) : (emit e s).busErr = s.busErr := rfl
@[simp] theorem emit_rx (e : Event) (s : State) : (emit e s).rx = s.rx := rfl
@[simp] theorem emit_cfg (e : Event) (s : State) : (emit e s).cfg = s.cfg := rfl
@[simp] theorem emit_adcSel (e : Event) (s : State) : (emit e s).adcSel = s.adcSel := rfl
@[simp] theorem emit_overrunMark (e : Event) (s : State) : (emit e s).overrunMark = s.overrunMark := rfl
@[simp] theorem emit_schedule (e : Event) (s : State) : (emit e s).schedule = s.schedule := rfl
@[simp] theorem emit_pollAnswers (e : Event) (s : State) : (emit e s).pollAnswers = s.pollAnswers := rfl
@[simp] theorem emit_frameAnswers (e : Event) (s : State) : (emit e s).frameAnswers = s.frameAnswers := rfl
@[simp] theorem emit_burstAnswers (e : Event) (s : State) : (emit e s).burstAnswers = s.burstAnswers := rfl
@[simp] theorem emit_draws (e : Event) (s : State) : (emit e s).draws = s.draws := rfl
@[simp] theorem emit_log (e : Event) (s : State) : (emit e s).log = e :: s.log := rfl

@[simp] theorem acceptWrites_mode (w : Byte) (s : State) : (acceptWrites w s).mode = s.mode := rfl
@[simp] theorem acceptWrites_lastCmd (w : Byte) (s : State) : (acceptWrites w s).lastCmd = w := rfl
@[simp] theorem acceptWrites_busy (w : Byte) (s : State) : (acceptWrites w s).busy = s.busy := rfl
@[simp] theorem acceptWrites_done (w : Byte) (s : State) : (acceptWrites w s).done = false := rfl
@[simp] theorem acceptWrites_valid (w : Byte) (s : State) : (acceptWrites w s).valid = false := rfl
@[simp] theorem acceptWrites_overrun (w : Byte) (s : State) : (acceptWrites w s).overrun = false := rfl
@[simp] theorem acceptWrites_code (w : Byte) (s : State) : (acceptWrites w s).code = .ok := rfl
@[simp] theorem acceptWrites_phase (w : Byte) (s : State) : (acceptWrites w s).phase = s.phase := rfl
@[simp] theorem acceptWrites_pollRx (w : Byte) (s : State) : (acceptWrites w s).pollRx = s.pollRx := rfl
@[simp] theorem acceptWrites_result (w : Byte) (s : State) : (acceptWrites w s).result = 0 := rfl
@[simp] theorem acceptWrites_busErr (w : Byte) (s : State) : (acceptWrites w s).busErr = 0 := rfl
@[simp] theorem acceptWrites_rx (w : Byte) (s : State) : (acceptWrites w s).rx = s.rx := rfl
@[simp] theorem acceptWrites_cfg (w : Byte) (s : State) : (acceptWrites w s).cfg = s.cfg := rfl
@[simp] theorem acceptWrites_adcSel (w : Byte) (s : State) : (acceptWrites w s).adcSel = s.adcSel := rfl
@[simp] theorem acceptWrites_overrunMark (w : Byte) (s : State) : (acceptWrites w s).overrunMark = s.overrunMark := rfl
@[simp] theorem acceptWrites_schedule (w : Byte) (s : State) : (acceptWrites w s).schedule = s.schedule := rfl
@[simp] theorem acceptWrites_pollAnswers (w : Byte) (s : State) : (acceptWrites w s).pollAnswers = s.pollAnswers := rfl
@[simp] theorem acceptWrites_frameAnswers (w : Byte) (s : State) : (acceptWrites w s).frameAnswers = s.frameAnswers := rfl
@[simp] theorem acceptWrites_burstAnswers (w : Byte) (s : State) : (acceptWrites w s).burstAnswers = s.burstAnswers := rfl
@[simp] theorem acceptWrites_draws (w : Byte) (s : State) : (acceptWrites w s).draws = s.draws := rfl
@[simp] theorem acceptWrites_log (w : Byte) (s : State) : (acceptWrites w s).log = s.log := rfl

@[simp] theorem dropCommand_mode (w : Byte) (s : State) : (dropCommand w s).mode = s.mode := rfl
@[simp] theorem dropCommand_lastCmd (w : Byte) (s : State) : (dropCommand w s).lastCmd = s.lastCmd := rfl
@[simp] theorem dropCommand_busy (w : Byte) (s : State) : (dropCommand w s).busy = s.busy := rfl
@[simp] theorem dropCommand_done (w : Byte) (s : State) : (dropCommand w s).done = s.done := rfl
@[simp] theorem dropCommand_valid (w : Byte) (s : State) : (dropCommand w s).valid = s.valid := rfl
@[simp] theorem dropCommand_overrun (w : Byte) (s : State) : (dropCommand w s).overrun = true := rfl
@[simp] theorem dropCommand_code (w : Byte) (s : State) : (dropCommand w s).code = s.code := rfl
@[simp] theorem dropCommand_phase (w : Byte) (s : State) : (dropCommand w s).phase = s.phase := rfl
@[simp] theorem dropCommand_pollRx (w : Byte) (s : State) : (dropCommand w s).pollRx = s.pollRx := rfl
@[simp] theorem dropCommand_result (w : Byte) (s : State) : (dropCommand w s).result = s.result := rfl
@[simp] theorem dropCommand_busErr (w : Byte) (s : State) : (dropCommand w s).busErr = s.busErr := rfl
@[simp] theorem dropCommand_rx (w : Byte) (s : State) : (dropCommand w s).rx = s.rx := rfl
@[simp] theorem dropCommand_cfg (w : Byte) (s : State) : (dropCommand w s).cfg = s.cfg := rfl
@[simp] theorem dropCommand_adcSel (w : Byte) (s : State) : (dropCommand w s).adcSel = s.adcSel := rfl
@[simp] theorem dropCommand_schedule (w : Byte) (s : State) : (dropCommand w s).schedule = s.schedule := rfl
@[simp] theorem dropCommand_pollAnswers (w : Byte) (s : State) : (dropCommand w s).pollAnswers = s.pollAnswers := rfl
@[simp] theorem dropCommand_frameAnswers (w : Byte) (s : State) : (dropCommand w s).frameAnswers = s.frameAnswers := rfl
@[simp] theorem dropCommand_burstAnswers (w : Byte) (s : State) : (dropCommand w s).burstAnswers = s.burstAnswers := rfl
@[simp] theorem dropCommand_draws (w : Byte) (s : State) : (dropCommand w s).draws = s.draws := rfl
@[simp] theorem dropCommand_log (w : Byte) (s : State) : (dropCommand w s).log = s.log := rfl

/-- R264: the mark keeps the first dropped word. -/
@[simp] theorem dropCommand_overrunMark (w : Byte) (s : State) :
    (dropCommand w s).overrunMark = some (s.overrunMark.getD w) := by
  cases h : s.overrunMark <;> simp [dropCommand, h]

@[simp] theorem complete_mode (c : Code) (s : State) : (complete c s).mode = s.mode := rfl
@[simp] theorem complete_lastCmd (c : Code) (s : State) : (complete c s).lastCmd = s.lastCmd := rfl
@[simp] theorem complete_busy (c : Code) (s : State) : (complete c s).busy = false := rfl
@[simp] theorem complete_done (c : Code) (s : State) : (complete c s).done = true := rfl
@[simp] theorem complete_valid (c : Code) (s : State) : (complete c s).valid = s.valid := rfl
@[simp] theorem complete_overrun (c : Code) (s : State) : (complete c s).overrun = s.overrun := rfl
@[simp] theorem complete_code (c : Code) (s : State) : (complete c s).code = c := rfl
@[simp] theorem complete_phase (c : Code) (s : State) : (complete c s).phase = .idle := rfl
@[simp] theorem complete_pollRx (c : Code) (s : State) : (complete c s).pollRx = s.pollRx := rfl
@[simp] theorem complete_result (c : Code) (s : State) : (complete c s).result = s.result := rfl
@[simp] theorem complete_busErr (c : Code) (s : State) : (complete c s).busErr = s.busErr := rfl
@[simp] theorem complete_rx (c : Code) (s : State) : (complete c s).rx = s.rx := rfl
@[simp] theorem complete_cfg (c : Code) (s : State) : (complete c s).cfg = s.cfg := rfl
@[simp] theorem complete_adcSel (c : Code) (s : State) : (complete c s).adcSel = s.adcSel := rfl
@[simp] theorem complete_overrunMark (c : Code) (s : State) : (complete c s).overrunMark = s.overrunMark := rfl
@[simp] theorem complete_schedule (c : Code) (s : State) : (complete c s).schedule = s.schedule := rfl
@[simp] theorem complete_pollAnswers (c : Code) (s : State) : (complete c s).pollAnswers = s.pollAnswers := rfl
@[simp] theorem complete_frameAnswers (c : Code) (s : State) : (complete c s).frameAnswers = s.frameAnswers := rfl
@[simp] theorem complete_burstAnswers (c : Code) (s : State) : (complete c s).burstAnswers = s.burstAnswers := rfl
@[simp] theorem complete_draws (c : Code) (s : State) : (complete c s).draws = s.draws := rfl
@[simp] theorem complete_log (c : Code) (s : State) : (complete c s).log = s.log := rfl

@[simp] theorem raiseBusError_mode (e : Word) (s : State) : (raiseBusError e s).mode = s.mode := rfl
@[simp] theorem raiseBusError_lastCmd (e : Word) (s : State) : (raiseBusError e s).lastCmd = s.lastCmd := rfl
@[simp] theorem raiseBusError_busy (e : Word) (s : State) : (raiseBusError e s).busy = false := rfl
@[simp] theorem raiseBusError_done (e : Word) (s : State) : (raiseBusError e s).done = true := rfl
@[simp] theorem raiseBusError_valid (e : Word) (s : State) : (raiseBusError e s).valid = s.valid := rfl
@[simp] theorem raiseBusError_overrun (e : Word) (s : State) : (raiseBusError e s).overrun = s.overrun := rfl
@[simp] theorem raiseBusError_code (e : Word) (s : State) : (raiseBusError e s).code = .busError := rfl
@[simp] theorem raiseBusError_phase (e : Word) (s : State) : (raiseBusError e s).phase = .idle := rfl
@[simp] theorem raiseBusError_pollRx (e : Word) (s : State) : (raiseBusError e s).pollRx = s.pollRx := rfl
@[simp] theorem raiseBusError_result (e : Word) (s : State) : (raiseBusError e s).result = s.result := rfl
@[simp] theorem raiseBusError_busErr (e : Word) (s : State) : (raiseBusError e s).busErr = e := rfl
@[simp] theorem raiseBusError_rx (e : Word) (s : State) : (raiseBusError e s).rx = s.rx := rfl
@[simp] theorem raiseBusError_cfg (e : Word) (s : State) : (raiseBusError e s).cfg = s.cfg := rfl
@[simp] theorem raiseBusError_adcSel (e : Word) (s : State) : (raiseBusError e s).adcSel = s.adcSel := rfl
@[simp] theorem raiseBusError_overrunMark (e : Word) (s : State) : (raiseBusError e s).overrunMark = s.overrunMark := rfl
@[simp] theorem raiseBusError_schedule (e : Word) (s : State) : (raiseBusError e s).schedule = s.schedule := rfl
@[simp] theorem raiseBusError_pollAnswers (e : Word) (s : State) : (raiseBusError e s).pollAnswers = s.pollAnswers := rfl
@[simp] theorem raiseBusError_frameAnswers (e : Word) (s : State) : (raiseBusError e s).frameAnswers = s.frameAnswers := rfl
@[simp] theorem raiseBusError_burstAnswers (e : Word) (s : State) : (raiseBusError e s).burstAnswers = s.burstAnswers := rfl
@[simp] theorem raiseBusError_draws (e : Word) (s : State) : (raiseBusError e s).draws = s.draws := rfl
@[simp] theorem raiseBusError_log (e : Word) (s : State) : (raiseBusError e s).log = s.log := rfl

@[simp] theorem startPhase_mode (p : Phase) (s : State) : (startPhase p s).mode = s.mode := rfl
@[simp] theorem startPhase_lastCmd (p : Phase) (s : State) : (startPhase p s).lastCmd = s.lastCmd := rfl
@[simp] theorem startPhase_busy (p : Phase) (s : State) : (startPhase p s).busy = true := rfl
@[simp] theorem startPhase_done (p : Phase) (s : State) : (startPhase p s).done = s.done := rfl
@[simp] theorem startPhase_valid (p : Phase) (s : State) : (startPhase p s).valid = s.valid := rfl
@[simp] theorem startPhase_overrun (p : Phase) (s : State) : (startPhase p s).overrun = s.overrun := rfl
@[simp] theorem startPhase_code (p : Phase) (s : State) : (startPhase p s).code = s.code := rfl
@[simp] theorem startPhase_phase (p : Phase) (s : State) : (startPhase p s).phase = p := rfl
@[simp] theorem startPhase_pollRx (p : Phase) (s : State) : (startPhase p s).pollRx = s.pollRx := rfl
@[simp] theorem startPhase_result (p : Phase) (s : State) : (startPhase p s).result = s.result := rfl
@[simp] theorem startPhase_busErr (p : Phase) (s : State) : (startPhase p s).busErr = s.busErr := rfl
@[simp] theorem startPhase_rx (p : Phase) (s : State) : (startPhase p s).rx = s.rx := rfl
@[simp] theorem startPhase_cfg (p : Phase) (s : State) : (startPhase p s).cfg = s.cfg := rfl
@[simp] theorem startPhase_adcSel (p : Phase) (s : State) : (startPhase p s).adcSel = s.adcSel := rfl
@[simp] theorem startPhase_overrunMark (p : Phase) (s : State) : (startPhase p s).overrunMark = s.overrunMark := rfl
@[simp] theorem startPhase_schedule (p : Phase) (s : State) : (startPhase p s).schedule = s.schedule := rfl
@[simp] theorem startPhase_pollAnswers (p : Phase) (s : State) : (startPhase p s).pollAnswers = s.pollAnswers := rfl
@[simp] theorem startPhase_frameAnswers (p : Phase) (s : State) : (startPhase p s).frameAnswers = s.frameAnswers := rfl
@[simp] theorem startPhase_burstAnswers (p : Phase) (s : State) : (startPhase p s).burstAnswers = s.burstAnswers := rfl
@[simp] theorem startPhase_draws (p : Phase) (s : State) : (startPhase p s).draws = s.draws := rfl
@[simp] theorem startPhase_log (p : Phase) (s : State) : (startPhase p s).log = s.log := rfl

@[simp] theorem drawAdcSel_mode (s : State) : (drawAdcSel s).mode = s.mode := rfl
@[simp] theorem drawAdcSel_lastCmd (s : State) : (drawAdcSel s).lastCmd = s.lastCmd := rfl
@[simp] theorem drawAdcSel_busy (s : State) : (drawAdcSel s).busy = s.busy := rfl
@[simp] theorem drawAdcSel_done (s : State) : (drawAdcSel s).done = s.done := rfl
@[simp] theorem drawAdcSel_valid (s : State) : (drawAdcSel s).valid = s.valid := rfl
@[simp] theorem drawAdcSel_overrun (s : State) : (drawAdcSel s).overrun = s.overrun := rfl
@[simp] theorem drawAdcSel_code (s : State) : (drawAdcSel s).code = s.code := rfl
@[simp] theorem drawAdcSel_phase (s : State) : (drawAdcSel s).phase = s.phase := rfl
@[simp] theorem drawAdcSel_pollRx (s : State) : (drawAdcSel s).pollRx = s.pollRx := rfl
@[simp] theorem drawAdcSel_result (s : State) : (drawAdcSel s).result = s.result := rfl
@[simp] theorem drawAdcSel_busErr (s : State) : (drawAdcSel s).busErr = s.busErr := rfl
@[simp] theorem drawAdcSel_rx (s : State) : (drawAdcSel s).rx = s.rx := rfl
@[simp] theorem drawAdcSel_cfg (s : State) : (drawAdcSel s).cfg = s.cfg := rfl
@[simp] theorem drawAdcSel_adcSel (s : State) : (drawAdcSel s).adcSel = Config.freeAdcSel s.draws := rfl
@[simp] theorem drawAdcSel_overrunMark (s : State) : (drawAdcSel s).overrunMark = s.overrunMark := rfl
@[simp] theorem drawAdcSel_schedule (s : State) : (drawAdcSel s).schedule = s.schedule := rfl
@[simp] theorem drawAdcSel_pollAnswers (s : State) : (drawAdcSel s).pollAnswers = s.pollAnswers := rfl
@[simp] theorem drawAdcSel_frameAnswers (s : State) : (drawAdcSel s).frameAnswers = s.frameAnswers := rfl
@[simp] theorem drawAdcSel_burstAnswers (s : State) : (drawAdcSel s).burstAnswers = s.burstAnswers := rfl
@[simp] theorem drawAdcSel_draws (s : State) : (drawAdcSel s).draws = s.draws + 1 := rfl
@[simp] theorem drawAdcSel_log (s : State) : (drawAdcSel s).log = s.log := rfl

@[simp] theorem selectMode_mode (m : Mode) (s : State) : (selectMode m s).mode = m := rfl
@[simp] theorem selectMode_lastCmd (m : Mode) (s : State) : (selectMode m s).lastCmd = s.lastCmd := rfl
@[simp] theorem selectMode_busy (m : Mode) (s : State) : (selectMode m s).busy = false := rfl
@[simp] theorem selectMode_done (m : Mode) (s : State) : (selectMode m s).done = true := rfl
@[simp] theorem selectMode_valid (m : Mode) (s : State) : (selectMode m s).valid = s.valid := rfl
@[simp] theorem selectMode_overrun (m : Mode) (s : State) : (selectMode m s).overrun = s.overrun := rfl
@[simp] theorem selectMode_code (m : Mode) (s : State) : (selectMode m s).code = .ok := rfl
@[simp] theorem selectMode_phase (m : Mode) (s : State) : (selectMode m s).phase = .idle := rfl
@[simp] theorem selectMode_pollRx (m : Mode) (s : State) : (selectMode m s).pollRx = s.pollRx := rfl
@[simp] theorem selectMode_result (m : Mode) (s : State) : (selectMode m s).result = s.result := rfl
@[simp] theorem selectMode_busErr (m : Mode) (s : State) : (selectMode m s).busErr = s.busErr := rfl
@[simp] theorem selectMode_rx (m : Mode) (s : State) : (selectMode m s).rx = s.rx := rfl
@[simp] theorem selectMode_cfg (m : Mode) (s : State) : (selectMode m s).cfg = s.cfg := rfl
@[simp] theorem selectMode_adcSel (m : Mode) (s : State) : (selectMode m s).adcSel = s.adcSel := rfl
@[simp] theorem selectMode_overrunMark (m : Mode) (s : State) : (selectMode m s).overrunMark = s.overrunMark := rfl
@[simp] theorem selectMode_schedule (m : Mode) (s : State) : (selectMode m s).schedule = s.schedule := rfl
@[simp] theorem selectMode_pollAnswers (m : Mode) (s : State) : (selectMode m s).pollAnswers = s.pollAnswers := rfl
@[simp] theorem selectMode_frameAnswers (m : Mode) (s : State) : (selectMode m s).frameAnswers = s.frameAnswers := rfl
@[simp] theorem selectMode_burstAnswers (m : Mode) (s : State) : (selectMode m s).burstAnswers = s.burstAnswers := rfl
@[simp] theorem selectMode_draws (m : Mode) (s : State) : (selectMode m s).draws = s.draws := rfl
@[simp] theorem selectMode_log (m : Mode) (s : State) : (selectMode m s).log = s.log := rfl

@[simp] theorem blockReset_mode (s : State) : (blockReset s).mode = .a128 := rfl
@[simp] theorem blockReset_lastCmd (s : State) : (blockReset s).lastCmd = 0x00 := rfl
@[simp] theorem blockReset_busy (s : State) : (blockReset s).busy = false := rfl
@[simp] theorem blockReset_done (s : State) : (blockReset s).done = false := rfl
@[simp] theorem blockReset_valid (s : State) : (blockReset s).valid = false := rfl
@[simp] theorem blockReset_overrun (s : State) : (blockReset s).overrun = false := rfl
@[simp] theorem blockReset_code (s : State) : (blockReset s).code = .ok := rfl
@[simp] theorem blockReset_phase (s : State) : (blockReset s).phase = .idle := rfl
@[simp] theorem blockReset_pollRx (s : State) : (blockReset s).pollRx = 0x00 := rfl
@[simp] theorem blockReset_result (s : State) : (blockReset s).result = 0 := rfl
@[simp] theorem blockReset_busErr (s : State) : (blockReset s).busErr = 0 := rfl
@[simp] theorem blockReset_rx (s : State) : (blockReset s).rx = Vector.replicate frameLen 0 := rfl
@[simp] theorem blockReset_cfg (s : State) : (blockReset s).cfg = s.cfg := rfl
@[simp] theorem blockReset_adcSel (s : State) : (blockReset s).adcSel = s.adcSel := rfl
@[simp] theorem blockReset_overrunMark (s : State) : (blockReset s).overrunMark = s.overrunMark := rfl
@[simp] theorem blockReset_schedule (s : State) : (blockReset s).schedule = s.schedule := rfl
@[simp] theorem blockReset_pollAnswers (s : State) : (blockReset s).pollAnswers = s.pollAnswers := rfl
@[simp] theorem blockReset_frameAnswers (s : State) : (blockReset s).frameAnswers = s.frameAnswers := rfl
@[simp] theorem blockReset_burstAnswers (s : State) : (blockReset s).burstAnswers = s.burstAnswers := rfl
@[simp] theorem blockReset_draws (s : State) : (blockReset s).draws = s.draws := rfl
@[simp] theorem blockReset_log (s : State) : (blockReset s).log = s.log := rfl

@[simp] theorem launch_mode (c : Config) (m : Mode) : (State.launch c m).mode = .a128 := rfl
@[simp] theorem launch_lastCmd (c : Config) (m : Mode) : (State.launch c m).lastCmd = 0x00 := rfl
@[simp] theorem launch_busy (c : Config) (m : Mode) : (State.launch c m).busy = false := rfl
@[simp] theorem launch_done (c : Config) (m : Mode) : (State.launch c m).done = false := rfl
@[simp] theorem launch_valid (c : Config) (m : Mode) : (State.launch c m).valid = false := rfl
@[simp] theorem launch_overrun (c : Config) (m : Mode) : (State.launch c m).overrun = false := rfl
@[simp] theorem launch_code (c : Config) (m : Mode) : (State.launch c m).code = .ok := rfl
@[simp] theorem launch_phase (c : Config) (m : Mode) : (State.launch c m).phase = .idle := rfl
@[simp] theorem launch_pollRx (c : Config) (m : Mode) : (State.launch c m).pollRx = 0x00 := rfl
@[simp] theorem launch_result (c : Config) (m : Mode) : (State.launch c m).result = 0 := rfl
@[simp] theorem launch_busErr (c : Config) (m : Mode) : (State.launch c m).busErr = 0 := rfl
@[simp] theorem launch_rx (c : Config) (m : Mode) : (State.launch c m).rx = Vector.replicate frameLen 0 := rfl
@[simp] theorem launch_cfg (c : Config) (m : Mode) : (State.launch c m).cfg = c := rfl
@[simp] theorem launch_adcSel (c : Config) (m : Mode) : (State.launch c m).adcSel = m := rfl
@[simp] theorem launch_overrunMark (c : Config) (m : Mode) : (State.launch c m).overrunMark = none := rfl
@[simp] theorem launch_schedule (c : Config) (m : Mode) : (State.launch c m).schedule = [] := rfl
@[simp] theorem launch_pollAnswers (c : Config) (m : Mode) : (State.launch c m).pollAnswers = [] := rfl
@[simp] theorem launch_frameAnswers (c : Config) (m : Mode) : (State.launch c m).frameAnswers = [] := rfl
@[simp] theorem launch_burstAnswers (c : Config) (m : Mode) : (State.launch c m).burstAnswers = [] := rfl
@[simp] theorem launch_draws (c : Config) (m : Mode) : (State.launch c m).draws = 0 := rfl
@[simp] theorem launch_log (c : Config) (m : Mode) : (State.launch c m).log = [] := rfl

end Sys2Proof.Machine
end

