-- ==== Sys2Proof/Laws/Ops.lean ====
section
/-! SUPPORT. For each shared operation and each step function, once, everything it can do; later proofs cite these instead of
unfolding the operation. -/

namespace Sys2Proof.Machine

/-! ### Acceptance -/

/-- A command written to a busy block is dropped (R264). -/
theorem command_busy {s : State} (h : s.busy = true) (w : Byte) (body : State → State) :
    command w body s = dropCommand w s := if_pos h

/-- A command written to an idle block is accepted (R261). -/
theorem command_idle {s : State} (h : s.busy = false) (w : Byte) (body : State → State) :
    command w body s = body (acceptWrites w s) := if_neg (by simp [h])

/-- What each instruction does once accepted: its word and its body. -/
def acceptedBody : Instr → State → State
  | .setmodeA128 => selectMode .a128
  | .setmodeB32 => selectMode .b32
  | .setmodeA64 => selectMode .a64
  | .readnb | .readblk => startPhase .polling
  | .reset => startPhase .bursting
  | .pwrdn | .pwrup => complete .unsupported

/-- Every instruction's meaning is an acceptance of its own word. -/
theorem exec_eq_command (i : Instr) (s : State) : exec i s = .next (command (encode i) (acceptedBody i) s) := by
  cases i <;> rfl

/-- The word of the instruction that a word decodes to is that word (R109: one word per instruction). -/
theorem word_of_decoded {w : Byte} {i : Instr} (h : decode w = .instr i) : encode i = w := by
  have all : ∀ w : Byte, ∀ j ∈ (decode w).instr?, encode j = w := by decide
  exact all w i (by rw [h]; rfl)

/-- What an accepted word does in its acceptance step, by its decoding (R261). -/
def wordBody (w : Byte) : State → State :=
  match decode w with
  | .instr i => acceptedBody i
  | .illegal _ => complete .illegal

/-- Everything an accepted word can do in its acceptance step (R261). -/
theorem wordBody_cases (w : Byte) :
    (∃ m, decode w = .instr (setmode m) ∧ wordBody w = selectMode m) ∨
      ((w = 0x20 ∨ w = 0x30) ∧ wordBody w = startPhase .polling) ∨ (w = 0x40 ∧ wordBody w = startPhase .bursting) ∨
      ((w = 0x50 ∨ w = 0x60) ∧ wordBody w = complete .unsupported) ∨
      ((wordFields w).wf = false ∧ wordBody w = complete .illegal) := by
  unfold wordBody
  cases h : decode w with
  | instr i =>
    have hw := word_of_decoded h
    cases i <;> subst hw
    · exact .inl ⟨.a128, rfl, rfl⟩
    · exact .inl ⟨.b32, rfl, rfl⟩
    · exact .inl ⟨.a64, rfl, rfl⟩
    · exact .inr (.inl ⟨.inl rfl, rfl⟩)
    · exact .inr (.inl ⟨.inr rfl, rfl⟩)
    · exact .inr (.inr (.inl ⟨rfl, rfl⟩))
    · exact .inr (.inr (.inr (.inl ⟨.inl rfl, rfl⟩)))
    · exact .inr (.inr (.inr (.inl ⟨.inr rfl, rfl⟩)))
  | illegal y =>
    have all : ∀ w : Byte, (decode w).instr? = none → (wordFields w).wf = false := by decide
    exact .inr (.inr (.inr (.inr ⟨all w (by rw [h]; rfl), rfl⟩)))

/-- A write to CMD always has a next state: the word is dropped, or accepted with the body its decoding gives. -/
theorem writeCmd_eq (v : Word) (s : State) :
    writeCmd v s = .next (command (commandByte v) (wordBody (commandByte v)) s) := by
  unfold writeCmd wordBody
  cases h : decode (commandByte v) with
  | instr i => exact (exec_eq_command i s).trans (by rw [word_of_decoded h])
  | illegal y => rfl

/-- A dropped command, written out (R264). -/
theorem dropCommand_eq (w : Byte) (s : State) :
    dropCommand w s = { s with overrun := true, overrunMark := some (s.overrunMark.getD w) } := by
  cases h : s.overrunMark <;> simp [dropCommand, h]

/-- Every instruction, in an idle block. -/
theorem exec_idle {s : State} (i : Instr) (h : s.busy = false) :
    exec i s = .next (acceptedBody i (acceptWrites (encode i) s)) := by
  rw [exec_eq_command, command_idle h]

/-- Every instruction, in a busy block. -/
theorem exec_busy {s : State} (i : Instr) (h : s.busy = true) : exec i s = .next (dropCommand (encode i) s) := by
  rw [exec_eq_command, command_busy h]

/-! ### The environment's answers -/

/-- A poll answer is the next listed one. -/
theorem takePoll_cons {s : State} {a : BusAnswer Byte} {rest : List (BusAnswer Byte)} (h : s.pollAnswers = a :: rest) :
    takePoll s = (portAnswer s.cfg.busErrW a, { s with pollAnswers := rest }) := by
  unfold takePoll; rw [h]

/-- With no poll answer listed, it is a free value. -/
theorem takePoll_nil {s : State} (h : s.pollAnswers = []) :
    takePoll s = (portAnswer s.cfg.busErrW (Config.freePoll s.draws), { s with draws := s.draws + 1 }) := by
  unfold takePoll; rw [h]

/-- A transfer answer is the next listed one. -/
theorem takeFrame_cons {s : State} {a : BusAnswer Readback} {rest : List (BusAnswer Readback)}
    (h : s.frameAnswers = a :: rest) :
    takeFrame s = (portAnswer s.cfg.busErrW a, { s with frameAnswers := rest }) := by
  unfold takeFrame; rw [h]

/-- With no transfer answer listed, it is a free value. -/
theorem takeFrame_nil {s : State} (h : s.frameAnswers = []) :
    takeFrame s = (portAnswer s.cfg.busErrW (Config.freeFrame s.draws), { s with draws := s.draws + 1 }) := by
  unfold takeFrame; rw [h]

/-- A burst answer is the next listed one. -/
theorem takeBurst_cons {s : State} {a : BusAnswer Unit} {rest : List (BusAnswer Unit)} (h : s.burstAnswers = a :: rest) :
    takeBurst s = (portAnswer s.cfg.busErrW a, { s with burstAnswers := rest }) := by
  unfold takeBurst; rw [h]

/-- With no burst answer listed, it is a free value. -/
theorem takeBurst_nil {s : State} (h : s.burstAnswers = []) :
    takeBurst s = (portAnswer s.cfg.busErrW (Config.freeBurst s.draws), { s with draws := s.draws + 1 }) := by
  unfold takeBurst; rw [h]

/-- Taking a poll answer changes only the list of poll answers and the draw counter. -/
theorem takePoll_frame (s : State) :
    ∃ rest n, (takePoll s).2 = { s with pollAnswers := rest, draws := n } := by
  cases h : s.pollAnswers with
  | nil => exact ⟨[], s.draws + 1, by rw [takePoll_nil h, ← h]⟩
  | cons a rest => exact ⟨rest, s.draws, by rw [takePoll_cons h]⟩

/-- Taking a transfer answer changes only the list of transfer answers and the draw counter. -/
theorem takeFrame_frame (s : State) :
    ∃ rest n, (takeFrame s).2 = { s with frameAnswers := rest, draws := n } := by
  cases h : s.frameAnswers with
  | nil => exact ⟨[], s.draws + 1, by rw [takeFrame_nil h, ← h]⟩
  | cons a rest => exact ⟨rest, s.draws, by rw [takeFrame_cons h]⟩

/-- Taking a burst answer changes only the list of burst answers and the draw counter. -/
theorem takeBurst_frame (s : State) :
    ∃ rest n, (takeBurst s).2 = { s with burstAnswers := rest, draws := n } := by
  cases h : s.burstAnswers with
  | nil => exact ⟨[], s.draws + 1, by rw [takeBurst_nil h, ← h]⟩
  | cons a rest => exact ⟨rest, s.draws, by rw [takeBurst_cons h]⟩

/-- An error value, cut to the port's width, is below 2 ^ width. -/
theorem clipErr_lt (w : Nat) (e : Word) : (clipErr w e).toNat < 2 ^ w := by
  unfold clipErr
  rw [BitVec.toNat_ofNat]
  exact lt_of_le_of_lt (Nat.mod_le _ _) (Nat.mod_lt _ (Nat.two_pow_pos w))

/-- An error that a poll returns has BUS_ERR_W bits. -/
theorem takePoll_err_lt {s : State} {e : Word} (h : (takePoll s).1 = .err e) : e.toNat < 2 ^ s.cfg.busErrW := by
  unfold takePoll portAnswer at h
  split at h <;> (simp only at h; split at h <;> cases h; exact clipErr_lt _ _)

/-- An error that a transfer returns has BUS_ERR_W bits. -/
theorem takeFrame_err_lt {s : State} {e : Word} (h : (takeFrame s).1 = .err e) : e.toNat < 2 ^ s.cfg.busErrW := by
  unfold takeFrame portAnswer at h
  split at h <;> (simp only at h; split at h <;> cases h; exact clipErr_lt _ _)

/-- An error that a burst returns has BUS_ERR_W bits. -/
theorem takeBurst_err_lt {s : State} {e : Word} (h : (takeBurst s).1 = .err e) : e.toNat < 2 ^ s.cfg.busErrW := by
  unfold takeBurst portAnswer at h
  split at h <;> (simp only at h; split at h <;> cases h; exact clipErr_lt _ _)

/-! ### The sequencer's steps -/

/-- The poll step, by its answer (R183). -/
theorem pollStep_eq {s u : State} {a : BusAnswer Byte} (h : takePoll s = (a, u)) :
    pollStep s = afterPoll a (emit (.transfer [pollTx] (a.map fun b => [b])) u) := by
  unfold pollStep; rw [h]

/-- The transfer step, by its answer (R186). -/
theorem transferStep_eq {s u : State} {a : BusAnswer Readback} (h : takeFrame s = (a, u)) :
    transferStep s = afterFrame a (emit (.transfer (encFrame s.mode) (a.map Vector.toList)) u) := by
  unfold transferStep; rw [h]

/-- The burst step, by its answer (R222). -/
theorem burstStep_eq {s u : State} {a : BusAnswer Unit} (h : takeBurst s = (a, u)) :
    burstStep s = afterBurst a (emit (.busWrite (burstFrame s.cfg) a) u) := by
  unfold burstStep; rw [h]

theorem afterPoll_err (e : Word) (s : State) : afterPoll (.err e) s = raiseBusError e s := rfl

theorem afterPoll_ready {b : Byte} (h : b ≠ 0xFF) (s : State) :
    afterPoll (.ok b) s = { s with pollRx := b, phase := .transferring } := by
  have : notReady b = false := by simpa [notReady] using h
  simp [afterPoll, this]

theorem afterPoll_notReady (s : State) : afterPoll (.ok 0xFF) s = pollNotReady { s with pollRx := 0xFF } := rfl

/-- Everything a poll step can do (R183). -/
theorem pollStep_cases (s : State) :
    ∃ rest n,
      (∃ e, (takePoll s).1 = .err e ∧
        pollStep s = raiseBusError e
          (emit (.transfer [0x00] (.err e)) { s with pollAnswers := rest, draws := n })) ∨
      (∃ b, (takePoll s).1 = .ok b ∧ b ≠ 0xFF ∧
        pollStep s = emit (.transfer [0x00] (.ok [b]))
          { s with pollAnswers := rest, draws := n, pollRx := b, phase := .transferring }) ∨
      ((takePoll s).1 = .ok 0xFF ∧ opOf s.lastCmd = 0x2 ∧
        pollStep s = complete .wouldBlock
          (emit (.transfer [0x00] (.ok [0xFF])) { s with pollAnswers := rest, draws := n, pollRx := 0xFF })) ∨
      ((takePoll s).1 = .ok 0xFF ∧ opOf s.lastCmd ≠ 0x2 ∧
        pollStep s = emit (.transfer [0x00] (.ok [0xFF]))
          { s with pollAnswers := rest, draws := n, pollRx := 0xFF, phase := .delaying }) := by
  obtain ⟨rest, n, hf⟩ := takePoll_frame s
  refine ⟨rest, n, ?_⟩
  cases ha : (takePoll s).1 with
  | err e => exact .inl ⟨e, rfl, by rw [pollStep_eq (Prod.ext ha hf)]; rfl⟩
  | ok b =>
    rw [pollStep_eq (Prod.ext ha hf)]
    by_cases hb : b = 0xFF
    · subst hb
      rw [afterPoll_notReady]
      by_cases hop : opOf s.lastCmd = 0x2
      · exact .inr (.inr (.inl ⟨rfl, hop, if_pos hop⟩))
      · exact .inr (.inr (.inr ⟨rfl, hop, if_neg hop⟩))
    · exact .inr (.inl ⟨b, rfl, hb, by rw [afterPoll_ready hb]; rfl⟩)

/-- Everything a transfer step can do (R186, R187, R188). -/
theorem transferStep_cases (s : State) :
    ∃ rest n,
      (∃ e, (takeFrame s).1 = .err e ∧
        transferStep s = raiseBusError e (drawAdcSel
          (emit (.transfer (encFrame s.mode) (.err e)) { s with frameAnswers := rest, draws := n }))) ∨
      (∃ rx, (takeFrame s).1 = .ok rx ∧
        transferStep s = complete .ok
          (emit (.reading (dec rx) s.adcSel) (emit (.transfer (encFrame s.mode) (.ok rx.toList))
            { s with
              frameAnswers := rest, draws := n, rx := rx, result := dec rx, valid := true, adcSel := s.mode }))) := by
  obtain ⟨rest, n, hf⟩ := takeFrame_frame s
  refine ⟨rest, n, ?_⟩
  cases ha : (takeFrame s).1 with
  | err e => exact .inl ⟨e, rfl, by rw [transferStep_eq (Prod.ext ha hf)]; rfl⟩
  | ok rx => exact .inr ⟨rx, rfl, by rw [transferStep_eq (Prod.ext ha hf)]; rfl⟩

/-- Everything a burst step can do (R222, R223). -/
theorem burstStep_cases (s : State) :
    ∃ rest n,
      (∃ e, (takeBurst s).1 = .err e ∧
        burstStep s = raiseBusError e (drawAdcSel
          (emit (.busWrite (burstFrame s.cfg) (.err e)) { s with burstAnswers := rest, draws := n }))) ∨
      ((takeBurst s).1 = .ok () ∧
        burstStep s = complete .ok (emit (.busWrite (burstFrame s.cfg) (.ok ()))
          { s with burstAnswers := rest, draws := n, mode := .a128, adcSel := .a128 })) := by
  obtain ⟨rest, n, hf⟩ := takeBurst_frame s
  refine ⟨rest, n, ?_⟩
  cases ha : (takeBurst s).1 with
  | err e => exact .inl ⟨e, rfl, by rw [burstStep_eq (Prod.ext ha hf)]; rfl⟩
  | ok _ => exact .inr ⟨rfl, by rw [burstStep_eq (Prod.ext ha hf)]; rfl⟩

/-- The sequencer's step, by the phase (10_state.md R37). -/
theorem sequencerStep_idle {s : State} (h : s.phase = .idle) : sequencerStep s = s := by
  unfold sequencerStep; rw [h]
theorem sequencerStep_polling {s : State} (h : s.phase = .polling) : sequencerStep s = pollStep s := by
  unfold sequencerStep; rw [h]
theorem sequencerStep_delaying {s : State} (h : s.phase = .delaying) : sequencerStep s = delayStep s := by
  unfold sequencerStep; rw [h]
theorem sequencerStep_transferring {s : State} (h : s.phase = .transferring) : sequencerStep s = transferStep s := by
  unfold sequencerStep; rw [h]
theorem sequencerStep_bursting {s : State} (h : s.phase = .bursting) : sequencerStep s = burstStep s := by
  unfold sequencerStep; rw [h]

/-! ### Turns -/

/-- A step takes the next scheduled turn. -/
theorem step_turn {s : State} {turn : Turn} {rest : List Turn} (h : s.schedule = turn :: rest) :
    step s = takeTurn turn { s with schedule := rest } := by
  unfold step nextTurn; rw [h]

/-- An aligned read inside the window reaches the register at its offset (R71). -/
theorem hostAccess_read {off : Nat} {r : HostReg} (ha : off % 4 = 0) (hr : regAt off = some r) (s : State) :
    hostAccess (.read off 4) s = hostRead off r s := by
  simp [hostAccess, HostAccess.aligned, HostAccess.size, HostAccess.off, ha, hr]

/-- An aligned write inside the window reaches the register at its offset (R71). -/
theorem hostAccess_write {off : Nat} {r : HostReg} (ha : off % 4 = 0) (hr : regAt off = some r) (v : Word) (s : State) :
    hostAccess (.write off 4 v) s = hostWrite r v s := by
  simp [hostAccess, HostAccess.aligned, HostAccess.size, HostAccess.off, ha, hr]

/-- In the sequencer's turn the step is the sequencer's. -/
theorem step_sequencer {s t : State} (h : sequencerTurn s t) : step s = .next (sequencerStep t) := by
  obtain ⟨h, rfl⟩ | ⟨rest, h, rfl⟩ := h <;> (unfold step nextTurn; rw [h]); rfl

/-- In the host's turn that writes CMD the step is the write. -/
theorem step_writesCmd {v : Word} {s t : State} (h : writesCmd v s t) : step s = writeCmd v t := by
  obtain ⟨rest, h, rfl⟩ := h
  rw [step_turn h]
  exact hostAccess_write (off := 0x00) rfl rfl v _

/-- The sequencer's turn changes only the schedule. -/
theorem sequencerTurn_frame {s t : State} (h : sequencerTurn s t) : ∃ rest, t = { s with schedule := rest } := by
  obtain ⟨_, rfl⟩ | ⟨r, _, rfl⟩ := h
  · exact ⟨t.schedule, rfl⟩
  · exact ⟨r, rfl⟩

/-- A step is that of the turn it takes: the one inversion of `step`. -/
theorem step_cases (s : State) :
    (∃ t, sequencerTurn s t ∧ step s = .next (sequencerStep t)) ∨
      (∃ v t, writesCmd v s t ∧ step s = writeCmd v t) ∨
      (∃ rest off v, s.schedule = .access (.read off 4) :: rest ∧ off < 0x20 ∧
        step s = .next (emit (.hostRead off v) { s with schedule := rest })) ∨
      (∃ rest off v, s.schedule = .access (.write off 4 v) :: rest ∧ off ≠ 0 ∧ off < 0x20 ∧
        step s = .next { s with schedule := rest }) ∨
      (∃ rest a, s.schedule = .access a :: rest ∧ a.wf = false ∧ ∀ t, step s ≠ .next t) ∨
      (∃ rest, s.schedule = .wait :: rest ∧ step s = .next (waitTurn { s with schedule := rest })) ∨
      (∃ rest, s.schedule = .blockReset :: rest ∧ step s = .next (blockReset { s with schedule := rest })) := by
  cases h : s.schedule with
  | nil => exact .inl ⟨s, .inl ⟨h, rfl⟩, step_sequencer (.inl ⟨h, rfl⟩)⟩
  | cons turn rest =>
    have hs := step_turn h
    cases turn with
    | sequencer =>
      have ht : sequencerTurn s { s with schedule := rest } := .inr ⟨rest, h, rfl⟩
      exact .inl ⟨_, ht, step_sequencer ht⟩
    | wait => exact .inr (.inr (.inr (.inr (.inr (.inl ⟨rest, rfl, hs⟩)))))
    | blockReset => exact .inr (.inr (.inr (.inr (.inr (.inr ⟨rest, rfl, hs⟩)))))
    | access a =>
      rw [show takeTurn (.access a) { s with schedule := rest } = hostAccess a { s with schedule := rest } from rfl] at hs
      by_cases hal : a.aligned = true
      · cases hr : regAt a.off with
        | none =>
          refine .inr (.inr (.inr (.inr (.inl ⟨rest, a, rfl, ?_, ?_⟩))))
          · simp only [HostAccess.aligned, Bool.and_eq_true, beq_iff_eq] at hal
            have : ¬ a.off < 0x20 := by
              intro hlt
              have : ∀ n < 0x20, n % 4 = 0 → regAt n ≠ none := by decide
              exact this _ hlt hal.2 hr
            simp [HostAccess.wf, HostAccess.inWindow, this]
          · intro t; rw [hs]; simp [hostAccess, hal, hr]
        | some r =>
          have hoff : a.off < 0x20 := by
            unfold regAt at hr
            repeat' split at hr
            all_goals first | omega | exact absurd hr (by simp)
          cases a with
          | read off size =>
            have h4 : size = 4 := by simp [HostAccess.aligned, HostAccess.size] at hal; exact hal.1
            subst h4
            refine .inr (.inr (.inl ⟨rest, off, readReg r { s with schedule := rest }, rfl, hoff, ?_⟩))
            rw [hs]; simp only [HostAccess.off] at hr; simp [hostAccess, hal, HostAccess.off, hr, hostRead]
          | write off size v =>
            have h4 : size = 4 := by simp [HostAccess.aligned, HostAccess.size] at hal; exact hal.1
            subst h4
            simp only [HostAccess.off] at hr hoff
            by_cases h0 : off = 0
            · subst h0
              have hw : writesCmd v s { s with schedule := rest } := ⟨rest, h, rfl⟩
              exact .inr (.inl ⟨v, _, hw, step_writesCmd hw⟩)
            · refine .inr (.inr (.inr (.inl ⟨rest, off, v, rfl, h0, hoff, ?_⟩)))
              rw [hs]
              simp only [hostAccess, hal, HostAccess.off, hr]
              have : r ≠ .cmd := by
                intro hrc; subst hrc; unfold regAt at hr
                repeat' split at hr
                all_goals first | exact h0 ‹_› | exact absurd hr (by simp)
              cases r <;> first | exact absurd rfl this | rfl
      · refine .inr (.inr (.inr (.inr (.inl ⟨rest, a, rfl, ?_, ?_⟩))))
        · simp only [Bool.not_eq_true] at hal; simp [HostAccess.wf, hal]
        · intro t; rw [hs]; simp only [Bool.not_eq_true] at hal; simp [hostAccess, hal]

end Sys2Proof.Machine
end

