-- ==== Sys2Proof/Laws/PerInstr.lean ====
section
/-! SUPPORT. Facts about each instruction as syntax, one lemma per constructor. -/

namespace Sys2Proof.Laws.EncodingFields

/-- The encoding fields of one command (30_encoding.md R100, R103, R106): RSV is 0, OP is one of 1 to 6, M is not 0b11 and is 0
but for SETMODE, and the fields of its word are the ones it was packed from, those of a legal word. -/
def Statement (i : Instr) : Prop :=
  (instrFields i).rsv = 0 ∧ 1 ≤ (instrFields i).op.toNat ∧ (instrFields i).op.toNat ≤ 6 ∧ (instrFields i).m ≠ 0b11 ∧
    ((instrFields i).op ≠ 0x1 → (instrFields i).m = 0) ∧ wordFields (encode i) = instrFields i ∧
    (wordFields (encode i)).wf = true

theorem setmodeA128 : Statement .setmodeA128 := by unfold Statement; decide
theorem setmodeB32 : Statement .setmodeB32 := by unfold Statement; decide
theorem setmodeA64 : Statement .setmodeA64 := by unfold Statement; decide
theorem readnb : Statement .readnb := by unfold Statement; decide
theorem readblk : Statement .readblk := by unfold Statement; decide
theorem reset : Statement .reset := by unfold Statement; decide
theorem pwrdn : Statement .pwrdn := by unfold Statement; decide
theorem pwrup : Statement .pwrup := by unfold Statement; decide

end Sys2Proof.Laws.EncodingFields
end

