-- ==== Sys2Proof/Tests/Slice0.lean ====
section
/-! SUPPORT. The model's own tests, expected results from 95_test_vectors.md (the vector or program is named) or by hand from
the rules; and for each statement with hypotheses a concrete state and operands that meet them. -/

namespace Sys2Proof.Tests

open Sys2Proof.Machine

/-! ## Helpers -/

/-- The block right after reset beside an ADC that has just powered on. -/
def idle : State := State.powerOn Config.reference

/-- The block in the phase `p` of the command `w`. -/
def busyIn (p : Phase) (w : Byte) : State := { idle with busy := true, phase := p, lastCmd := w }

/-- The host's write of `v` to CMD. -/
def cmdWrite (v : Word) : Turn := .access (.write 0x00 4 v)

/-- The state of an outcome, if there is one. -/
def nextOf : Host.Outcome State Fault Refusal → Option State
  | .next s => some s
  | .fault _ => none
  | .refused _ => none

/-- STATUS after one step. -/
def statusAfter (s : State) : Option Word := (nextOf (step s)).map statusWord

/-- STATUS after the host's next access writes `v` to CMD. -/
def statusAfterCmd (v : Word) (s : State) : Option Word := statusAfter { s with schedule := [cmdWrite v] }

/-- What the host reads at `off`. -/
def hostReads (off : Nat) (s : State) : Option Event :=
  (nextOf (step { s with schedule := [.access (.read off 4)] })).bind fun t => t.log.head?

/-- Seven copies of a byte. -/
def sevenOf (b : Byte) : Readback := #v[b, b, b, b, b, b, b]

/-! ## Well-formedness: one ill-formed term for each check -/

theorem smoke_op_refused : ({ op := 0x7, rsv := 0, m := 0 } : CmdFields).wf = false := by decide
theorem smoke_op_zero_refused : ({ op := 0x0, rsv := 0, m := 0 } : CmdFields).wf = false := by decide
theorem smoke_rsv_refused : ({ op := 0x2, rsv := 0b01, m := 0 } : CmdFields).wf = false := by decide
theorem smoke_operand_refused : ({ op := 0x6, rsv := 0, m := 0b01 } : CmdFields).wf = false := by decide
theorem smoke_mode_refused : ({ op := 0x1, rsv := 0, m := 0b11 } : CmdFields).wf = false := by decide
theorem smoke_size_refused : (HostAccess.read 0x04 2).wf = false := by decide
theorem smoke_misaligned_refused : (HostAccess.write 0x02 4 0).wf = false := by decide
theorem smoke_outside_refused : (HostAccess.read 0x20 4).wf = false := by decide
theorem smoke_speed_refused : ({ Config.reference with fSck := 19999 } : Config).wf = false := by decide
theorem smoke_max_speed_refused : ({ Config.reference with fMax := 999999 } : Config).wf = false := by decide
theorem smoke_burst_refused : ({ Config.reference with resetBytes := 7 } : Config).wf = false := by decide
theorem smoke_delay_refused : ({ Config.reference with pollDelayMs := 0 } : Config).wf = false := by decide
theorem smoke_error_width_refused : ({ Config.reference with busErrW := 33 } : Config).wf = false := by decide
theorem smoke_error_width_zero_refused : ({ Config.reference with busErrW := 0 } : Config).wf = false := by decide
theorem smoke_transfer_refused : ({ Config.reference with maxTransfer := 7 } : Config).wf = false := by decide
theorem smoke_well_formed :
    ({ op := 0x1, rsv := 0, m := 0b10 } : CmdFields).wf = true ∧ (HostAccess.read 0x1C 4).wf = true ∧
      Config.reference.wf = true := by decide

/-! ## Decoding: words written out from `OOOO RRMM` (R100, R103, R104) -/

theorem test_decode_setmode_a128 : decode 0b00010000 = .instr .setmodeA128 := by decide
theorem test_decode_setmode_b32 : decode 0b00010001 = .instr .setmodeB32 := by decide
theorem test_decode_setmode_a64 : decode 0b00010010 = .instr .setmodeA64 := by decide
theorem test_decode_readnb : decode 0b00100000 = .instr .readnb := by decide
theorem test_decode_readblk : decode 0b00110000 = .instr .readblk := by decide
theorem test_decode_reset : decode 0b01000000 = .instr .reset := by decide
theorem test_decode_pwrdn : decode 0b01010000 = .instr .pwrdn := by decide
theorem test_decode_pwrup : decode 0b01100000 = .instr .pwrup := by decide

/-- The illegal words of 95_test_vectors.md section 8, each with the case of R106 it falls under. -/
theorem test_decode_illegal :
    decode 0x13 = .illegal .reservedMode ∧ decode 0x14 = .illegal .reservedBits ∧
      decode 0x21 = .illegal .operandNotZero ∧ decode 0x00 = .illegal .unknownOp ∧
      ([0x01, 0x0F, 0x18, 0x1C, 0x22, 0x23, 0x24, 0x33, 0x41, 0x44, 0x52, 0x63, 0x70, 0x80, 0xF0, 0xFF].all fun w =>
        (decode w).instr?.isNone) = true := by decide

/-- The words of the opcode table as numbers; a bit at or above the row's 8 is not part of the command. -/
theorem test_decode_table_word :
    decodeTableWord 8 0x12 = some .setmodeA64 ∧ decodeTableWord 8 0x30 = some .readblk ∧
      decodeTableWord 8 0x13 = none := by decide

/-! ## The codec -/

/-- 95_test_vectors.md section 1.1: the source's authoritative vectors. -/
theorem test_dec_source_vectors :
    dec (sevenOf 0x55) = 0 ∧ dec (sevenOf 0xAA) = 0xFFFFFFFF ∧ dec (sevenOf 0xFF) = 0xFFFFFFFF ∧
      dec (sevenOf 0x27) = 0x00555555 := by decide

/-- V-DEC-2 to V-DEC-6: the extremes, and single bits. -/
theorem test_dec_bits :
    dec #v[0x2A, 0xAA, 0xAA, 0xAA, 0xAA, 0xAA, 0x00] = 0x007FFFFF ∧ dec #v[0x80, 0, 0, 0, 0, 0, 0] = 0xFF800000 ∧
      dec #v[0, 0, 0, 0, 0, 0x02, 0] = 1 ∧ dec #v[0, 0, 0, 0, 0, 0x80, 0] = 8 ∧ dec #v[0, 0, 0, 0, 0, 0x01, 0] = 0 := by
  decide

/-- V-DEC-8, V-DEC-12, V-DEC-13, V-DEC-16. -/
theorem test_dec_bytes :
    dec #v[0x55, 0x55, 0x55, 0x55, 0x55, 0x55, 0xAA] = 0 ∧
      dec #v[0x02, 0x08, 0x0A, 0x20, 0x22, 0x28, 0x00] = 0x00123456 ∧
      dec #v[0xA8, 0xA2, 0xA0, 0x8A, 0x88, 0x88, 0x00] = 0xFFEDCBAA ∧ dec (sevenOf 0x7F) = 0x00777777 := by decide

/-- R143: SPREAD(0x7FFFFF). -/
theorem test_spread : spread 0x7FFFFF 0x00 = #v[0x2A, 0xAA, 0xAA, 0xAA, 0xAA, 0xAA, 0x00] := by decide

/-- V-ENC-1 to V-ENC-9. -/
theorem test_frames :
    pulses [clockByte] = 4 ∧ (trailer .a128, trailer .b32, trailer .a64) = (0x80, 0xA0, 0xA8) ∧
      pulses (encFrame .a64) = 27 ∧ pulses [pollTx] = 0 ∧ burstFrame Config.reference = List.replicate 8 0xFF ∧
      pulses (burstFrame Config.reference) = 1 ∧ highRuns (burstFrame Config.reference) = [64] := by decide

/-- R228, all rows. -/
theorem test_burst_length :
    [20000, 100000, 133333, 133334, 400000, 1000000, 5000000, 8000000].map nMin = [1, 1, 1, 2, 4, 8, 38, 61] := by decide

/-- R321: the wire bits of a poll, of a read frame, of an 8-byte burst. -/
theorem test_bus_bits : busBits 1 = 8 ∧ busBits frameLen = 56 ∧ busBits 8 = 64 := by decide

/-! ## The instructions, one step each, placed right after reset (section 4 to 8 of 95_test_vectors.md) -/

/-- V-MODE-1. -/
theorem test_setmode_a128 :
    (nextOf (step (State.reset.withFetchWord 8 0x10))).map statusWord = some 0x00000002 := by decide

/-- R161's example, V-MODE-2. -/
theorem test_setmode_b32 :
    (nextOf (step (State.reset.withFetchWord 8 0x11))).map statusWord = some 0x00000102 := by decide

/-- V-MODE-3. -/
theorem test_setmode_a64 :
    (nextOf (step (State.reset.withFetchWord 8 0x12))).map statusWord = some 0x00000202 := by decide

/-- P1 line 1. -/
theorem test_readnb :
    (nextOf (step (State.reset.withFetchWord 8 0x20))).map statusWord = some 0x00001001 := by decide

/-- P6 line 1. -/
theorem test_readblk :
    (nextOf (step (State.reset.withFetchWord 8 0x30))).map statusWord = some 0x00001001 := by decide

/-- P3 line 2: the mode is still A64 before the burst. -/
theorem test_reset : statusAfterCmd 0x40 { idle with mode := .a64 } = some 0x00004201 := by decide

/-- R250's example, V-PWR-1. -/
theorem test_pwrdn :
    (nextOf (step (State.reset.withFetchWord 8 0x50))).map statusWord = some 0x00000032 := by decide

/-- V-PWR-2. -/
theorem test_pwrup :
    (nextOf (step (State.reset.withFetchWord 8 0x60))).map statusWord = some 0x00000032 := by decide

/-- V-MODE-6 and V-ACC-1: illegal words; bits 31:8 of the write are ignored. -/
theorem test_illegal :
    statusAfterCmd 0x1F { idle with mode := .b32 } = some 0x00000142 ∧ statusAfterCmd 0x00000113 idle = some 0x00000042 := by
  decide

/-- V-ACC-2: a write to a busy block. -/
theorem test_overrun : statusAfterCmd 0x10 (busyIn .polling 0x30) = some 0x00001009 := by decide

/-! ## The block's steps -/

/-- V-RD-1, V-RD-5, P1 line 5. -/
theorem test_poll_readnb :
    statusAfter { busyIn .polling 0x20 with pollAnswers := [.ok 0xFF] } = some 0x00FF0012 ∧
      statusAfter { busyIn .polling 0x20 with pollAnswers := [.err 0x05] } = some 0x00000022 ∧
      statusAfter { busyIn .polling 0x20 with pollAnswers := [.ok 0x00] } = some 0x00003001 := by decide

/-- P6 lines 2 and 3. -/
theorem test_poll_and_delay_readblk :
    statusAfter { busyIn .polling 0x30 with pollAnswers := [.ok 0xFF] } = some 0x00FF2001 ∧
      statusAfter { busyIn .delaying 0x30 with pollRx := 0xFF } = some 0x00FF1001 := by decide

/-- V-RD-10: the frame's trailer is A64's, and adc_sel follows it. -/
theorem test_transfer :
    (nextOf (step { busyIn .transferring 0x20 with mode := .a64, frameAnswers := [.ok #v[0x80, 0, 0, 0, 0, 0, 0]] })).map
        (fun t => (statusWord t, t.result, t.adcSel, t.log)) =
      some (0x00000206, 0xFF800000, .a64,
        [.reading 0xFF800000 .a128,
          .transfer [0xAA, 0xAA, 0xAA, 0xAA, 0xAA, 0xAA, 0xA8] (.ok [0x80, 0, 0, 0, 0, 0, 0])]) := by decide

/-- P4 line 4: a failed transfer; the error value is kept, RX is not written. -/
theorem test_transfer_error :
    (nextOf (step
        { busyIn .transferring 0x20 with
          mode := .b32, pollRx := 0x7E, rx := sevenOf 0x27, frameAnswers := [.err 0x05] })).map
        (fun t => (statusWord t, t.busErr, readReg .rxlo t)) = some (0x007E0122, 0x05, 0x27272727) := by decide

/-- V-RST-2 and V-RST-5. -/
theorem test_burst :
    (nextOf (step { busyIn .bursting 0x40 with mode := .a64, adcSel := .b32, burstAnswers := [.ok ()] })).map
        (fun t => (statusWord t, t.adcSel)) = some (0x00000002, .a128) ∧
      statusAfter { busyIn .bursting 0x40 with mode := .a64, burstAnswers := [.err 1] } = some 0x00000222 := by decide

/-- V-ACC-7 and R300: a block reset in the middle of a command; the ADC's selection and the mark stay. -/
theorem test_block_reset :
    (nextOf (step
        { busyIn .transferring 0x30 with
          mode := .a64, adcSel := .b32, rx := sevenOf 0x27, overrunMark := some 0x10, schedule := [.blockReset] })).map
        (fun t => (statusWord t, readReg .rxlo t, readReg .rstlen t, t.adcSel, t.overrunMark)) =
      some (0, 0, 8, .b32, some 0x10) := by decide

/-! ## The window -/

/-- P2's end state: RXLO = 0xAAAAAAAA, RXHI = 0x00FFA8AA; P3 line 6; V-ACC-5. -/
theorem test_reads :
    let s : State := { idle with rx := #v[0xAA, 0xAA, 0xAA, 0xAA, 0xAA, 0xA8, 0xFF], lastCmd := 0x30 }
    [0x00, 0x10, 0x14, 0x18, 0x1C].map (hostReads · s) =
      [some (.hostRead 0x00 0x30), some (.hostRead 0x10 0xAAAAAAAA), some (.hostRead 0x14 0x00FFA8AA),
        some (.hostRead 0x18 8), some (.hostRead 0x1C 0)] := by decide

/-- V-ACC-4, V-ACC-6, and an access outside the window (log entry 9). -/
theorem test_other_accesses :
    statusAfter { idle with schedule := [.access (.write 0x04 4 0xFFFFFFFF)] } = some 0 ∧
      step { idle with schedule := [.access (.read 0x04 2)] } = .refused (.notAlignedWord 0x04 2) ∧
      step { idle with schedule := [.access (.read 0x20 4)] } = .fault (.outsideWindow 0x20) :=
  ⟨by decide, rfl, rfl⟩

/-! ## The assembler -/

theorem test_assembler :
    parseLine "SELECT B32 ; then a reading" = some (.select .b32) ∧
      asmTurns (.select .b32) = [cmdWrite 0x11, cmdWrite 0x30, .wait] ∧
      (parseLine "RD 0x1C").map asmTurns = some [.access (.read 0x1C 4)] ∧
      (parseLine "WR STATUS, 0xFFFFFFFF").map asmTurns = some [.access (.write 0x04 4 0xFFFFFFFF)] ∧
      (parseLine "ADCRESET").map asmTurns = some [cmdWrite 0x40, .wait] ∧
      hexLiteral 2 "0xaF" = some 175 ∧ hexLiteral 2 "0x" = none ∧ hexLiteral 2 "0x100" = none ∧
      hexLiteral 2 "0xG0" = none ∧ hexLiteral 2 "13" = none ∧ (parseLine "TRYREAD").map asmTurns = some [cmdWrite 0x20, .wait] ∧ parseLine "readnb" = none := by decide

/-! ## Witnesses: states and operands that meet the hypotheses of the statements -/

theorem witness_EightWordsAreLegal :
    (0x13 : Byte) ∉ [0x10, 0x11, 0x12, 0x20, 0x30, 0x40, 0x50, 0x60] ∧ (0x12 : Byte) ∈ [(0x10 : Byte), 0x11, 0x12] := by
  decide

theorem witness_DecodeInvertsEncode : decode 0x12 = .instr .setmodeA64 := by decide

theorem witness_FramesStayBelowThreshold :
    1 ∈ highRuns (encFrame .a128) ∧ 20000 ≤ 20000 ∧ exceedsThreshold 1 16666 = true := by decide

theorem witness_BurstIsOneLongPulse : 1 ≤ 1 ∧ pulses [burstByte] = 1 ∧ highRuns [burstByte] = [8] := by decide

/-- Both sides of the boundary, and a configuration within its constraints. -/
theorem witness_BurstLengthIsLeast :
    exceedsThreshold (busBits 1) 133333 = true ∧ exceedsThreshold (busBits 1) 133334 = false ∧
      Config.reference.wf = true := by decide

theorem witness_DecodeReadsFirstBitsOnly :
    (∀ k < 6, ∀ p < 4,
      ((sevenOf 0x22).getD k 0).getLsbD (7 - 2 * p) = ((sevenOf 0x27).getD k 0).getLsbD (7 - 2 * p)) ∧
      sevenOf 0x22 ≠ sevenOf 0x27 := by decide

theorem witness_ShiftIsFloorDivision : (0xFFFFFF00 : Word).extractLsb' 0 8 = 0 ∧ (24 : Nat) ≤ 24 ∧ 31 < 32 := by decide

theorem witness_ReadingRangeIsExact :
    (dec #v[0x80, 0, 0, 0, 0, 0, 0]).toInt = -2 ^ 23 ∧
      (dec #v[0x2A, 0xAA, 0xAA, 0xAA, 0xAA, 0xAA, 0x00]).toInt = 2 ^ 23 - 1 := by decide

/-- Each offset of the window can be the host's next read. -/
theorem witness_HostReadsReturnRegisters :
    ∀ off ∈ [0x00, 0x04, 0x08, 0x0C, 0x10, 0x14, 0x18, 0x1C],
      ∃ s : State, s.schedule = .access (.read off 4) :: [] ∧ (step s matches .next _) := by
  intro off h
  refine ⟨{ idle with schedule := [.access (.read off 4)] }, rfl, ?_⟩
  fin_cases h <;> rfl

theorem witness_StatusWordLayout :
    ({ idle with schedule := [.access (.write 0x04 4 1)] } : State).schedule = .access (.write 0x04 4 1) :: [] := rfl

theorem witness_OtherWritesAreIgnored :
    (∀ off ∈ [0x04, 0x08, 0x0C, 0x10, 0x14, 0x18, 0x1C],
      ({ idle with schedule := [.access (.write off 4 5)] } : State).schedule = .access (.write off 4 5) :: []) ∧
      ({ idle with schedule := [.access (.read 0x1C 4)] } : State).schedule = .access (.read 0x1C 4) :: [] ∧
      (0x00000113 : Word).extractLsb' 0 8 = (0x13 : Word).extractLsb' 0 8 :=
  ⟨fun _ _ => rfl, rfl, by decide⟩

/-- A wrong size and a wrong offset. -/
theorem witness_MisalignedAccessIsRefused :
    ¬((HostAccess.read 0x04 2).size = 4 ∧ (HostAccess.read 0x04 2).off % 4 = 0) ∧
      ¬((HostAccess.write 0x03 4 0).size = 4 ∧ (HostAccess.write 0x03 4 0).off % 4 = 0) ∧
      ({ idle with schedule := [.access (.write 0x03 4 0)] } : State).schedule = .access (.write 0x03 4 0) :: [] :=
  ⟨by decide, by decide, rfl⟩

/-- The first offset outside the window. -/
theorem witness_AccessOutsideWindowFaults :
    (HostAccess.write 0x20 4 0).size = 4 ∧ (HostAccess.write 0x20 4 0).off % 4 = 0 ∧
      0x20 ≤ (HostAccess.write 0x20 4 0).off ∧
      ({ idle with schedule := [.access (.write 0x20 4 0)] } : State).schedule = .access (.write 0x20 4 0) :: [] :=
  ⟨by decide, by decide, by decide, rfl⟩

theorem witness_WaitReadsStatusUntilIdle :
    ({ busyIn .polling 0x30 with schedule := [.wait] } : State).schedule = .wait :: [] ∧
      ({ busyIn .polling 0x30 with schedule := [.wait] } : State).busy = true ∧
      ({ idle with schedule := [.wait] } : State).busy = false := ⟨rfl, rfl, rfl⟩

/-- A CMD write that is the host's next turn, to an idle block and to a busy one. -/
theorem witness_writesCmd (v : Word) (s : State) : writesCmd v { s with schedule := [cmdWrite v] } { s with schedule := [] } :=
  ⟨[], rfl, rfl⟩

theorem witness_StepRunsTheDecodedCommand :
    decode ((0x11 : Word).extractLsb' 0 8) = .instr .setmodeB32 ∧ decodeTableWord 8 0x20 = some .readnb ∧
      writesCmd 0x11 { idle with schedule := [cmdWrite 0x11] } idle := ⟨by decide, by decide, witness_writesCmd 0x11 idle⟩

/-- An idle block, a busy one, and the two ends of the words with OP = 0x1 that are not SETMODE. -/
theorem witness_SetmodeSelectsMode :
    idle.busy = false ∧ (busyIn .polling 0x30).busy = true ∧ writesCmd 0x13 { idle with schedule := [cmdWrite 0x13] } idle ∧
      ∀ w ∈ [(0x13 : Byte), 0x1F], w.toNat / 16 = 1 ∧ w ∉ [(0x10 : Byte), 0x11, 0x12] :=
  ⟨rfl, rfl, witness_writesCmd 0x13 idle, by decide⟩

theorem witness_BusCommandsStart : idle.busy = false := rfl

theorem witness_PowerCommandsAreUnsupported :
    idle.busy = false ∧ (busyIn .bursting 0x40).busy = true ∧ ∀ w ∈ [(0x51 : Byte), 0x5F, 0x61, 0x6F], (w.toNat / 16 = 5 ∨ w.toNat / 16 = 6) ∧ w.toNat % 16 ≠ 0 :=
  ⟨rfl, rfl, by decide⟩

/-- Every clause: a busy block, and an idle one with a word of each kind. -/
theorem witness_AcceptanceFollowsTheRule :
    (∀ v : Word, writesCmd v { idle with schedule := [cmdWrite v] } idle) ∧
      (∀ v : Word, writesCmd v { busyIn .polling 0x30 with schedule := [cmdWrite v] } (busyIn .polling 0x30)) ∧
      decode 0x70 = .illegal .unknownOp ∧ decode 0x12 = .instr (setmode .a64) ∧ decode 0x50 = .instr .pwrdn ∧
      decode 0x60 = .instr .pwrup ∧ decode 0x20 = .instr .readnb ∧ decode 0x30 = .instr .readblk ∧
      decode 0x40 = .instr .reset :=
  ⟨fun v => witness_writesCmd v idle, fun v => witness_writesCmd v (busyIn .polling 0x30), by decide, by decide, by decide,
    by decide, by decide, by decide, by decide⟩

/-- A dropped write; a step that keeps a mark; an accepted write; a step that clears OVERRUN, by each of the two ways. -/
theorem witness_BusyWriteIsDropped :
    (writesCmd 0x10 { busyIn .polling 0x30 with schedule := [cmdWrite 0x10] } (busyIn .polling 0x30) ∧
      (busyIn .polling 0x30).busy = true) ∧
      (∃ t, step { idle with overrunMark := some 0x10 } = .next t ∧ idle.busy = false) ∧
      (∃ t, step { idle with overrun := true, schedule := [cmdWrite 0x10] } = .next t ∧ t.overrun = false) ∧
      ∃ t, step { idle with overrun := true, schedule := [.blockReset] } = .next t ∧ t.overrun = false :=
  ⟨⟨witness_writesCmd 0x10 (busyIn .polling 0x30), rfl⟩, ⟨_, rfl, rfl⟩, ⟨_, rfl, rfl⟩, ⟨_, rfl, rfl⟩⟩

theorem witness_BusyBlockRefusesCommands : (busyIn .delaying 0x30).busy = true := rfl

theorem witness_AnswersComeFromTheEnvironment :
    ({ idle with pollAnswers := [.err 5] } : State).pollAnswers = .err 5 :: [] ∧ idle.pollAnswers = [] ∧
      ({ idle with frameAnswers := [.ok (sevenOf 1)] } : State).frameAnswers = .ok (sevenOf 1) :: [] ∧
      idle.frameAnswers = [] ∧ ({ idle with burstAnswers := [.ok ()] } : State).burstAnswers = .ok () :: [] ∧
      idle.burstAnswers = [] := ⟨rfl, rfl, rfl, rfl, rfl, rfl⟩

theorem witness_sequencerTurn (s : State) (h : s.schedule = []) : sequencerTurn s s := .inl ⟨h, rfl⟩

/-- The four clauses: a failed poll, the last ready byte, and the sentinel under READNB and under READBLK. -/
theorem witness_PollStepFollowsTheRule :
    (∀ w ∈ [(0x20 : Byte), 0x30], (busyIn .polling w).phase = .polling ∧ sequencerTurn (busyIn .polling w) (busyIn .polling w)) ∧
      takePoll { busyIn .polling 0x20 with pollAnswers := [.err 5] } = (.err (clipErr 32 5), busyIn .polling 0x20) ∧
      takePoll { busyIn .polling 0x20 with pollAnswers := [.ok 0xFE] } = (.ok 0xFE, busyIn .polling 0x20) ∧
      takePoll { busyIn .polling 0x20 with pollAnswers := [.ok 0xFF] } = (.ok 0xFF, busyIn .polling 0x20) ∧
      takePoll { busyIn .polling 0x30 with pollAnswers := [.ok 0xFF] } = (.ok 0xFF, busyIn .polling 0x30) ∧
      (busyIn .polling 0x20).lastCmd.extractLsb' 4 4 = 0x2 ∧ (busyIn .polling 0x30).lastCmd.extractLsb' 4 4 ≠ 0x2 :=
  ⟨fun _ _ => ⟨rfl, witness_sequencerTurn _ rfl⟩, rfl, rfl, rfl, rfl, by decide, by decide⟩

theorem witness_DelayStepPollsAgain :
    (busyIn .delaying 0x30).phase = .delaying ∧ sequencerTurn (busyIn .delaying 0x30) (busyIn .delaying 0x30) :=
  ⟨rfl, witness_sequencerTurn _ rfl⟩

/-- The two answers; and a busy block that stays busy over a step. -/
theorem witness_TransferStepFollowsTheRule :
    sequencerTurn (busyIn .transferring 0x20) (busyIn .transferring 0x20) ∧
      takeFrame { busyIn .transferring 0x20 with frameAnswers := [.err 5] } =
        (.err (clipErr 32 5), busyIn .transferring 0x20) ∧
      takeFrame { busyIn .transferring 0x20 with frameAnswers := [.ok (sevenOf 0x27)] } =
        (.ok (sevenOf 0x27), busyIn .transferring 0x20) ∧
      ∃ t, step (busyIn .delaying 0x30) = .next t ∧ (busyIn .delaying 0x30).busy = true ∧ t.busy = true :=
  ⟨witness_sequencerTurn _ rfl, rfl, rfl, _, rfl, rfl, rfl⟩

theorem witness_BurstStepFollowsTheRule :
    sequencerTurn (busyIn .bursting 0x40) (busyIn .bursting 0x40) ∧
      takeBurst { busyIn .bursting 0x40 with burstAnswers := [.err 5] } = (.err (clipErr 32 5), busyIn .bursting 0x40) ∧
      takeBurst { busyIn .bursting 0x40 with burstAnswers := [.ok ()] } = (.ok (), busyIn .bursting 0x40) :=
  ⟨witness_sequencerTurn _ rfl, rfl, rfl⟩

/-- A polling block that meets the invariant. -/
theorem inv_polling : Inv { busyIn .polling 0x20 with pollAnswers := [.ok 0xFF] } := by constructor <;> decide

theorem witness_WouldBlockIffSentinel :
    ∃ s : State, Inv s ∧ s.phase = .polling ∧ s.lastCmd = 0x20 ∧ sequencerTurn s s :=
  ⟨_, inv_polling, rfl, rfl, witness_sequencerTurn _ rfl⟩

theorem witness_BlockResetClearsRegisters :
    ({ busyIn .bursting 0x40 with schedule := [.blockReset] } : State).schedule = .blockReset :: [] := rfl

theorem witness_HostReadsZeroAfterBlockReset :
    ({ idle with schedule := [.blockReset, .access (.read 0x04 4)] } : State).schedule =
      .blockReset :: [.access (.read 0x04 4)] := rfl

/-- The four runs: not ready, a failed poll, a reading, a failed transfer. -/
theorem witness_ReadnbRunsToCompletion :
    ∀ (p : BusAnswer Byte) (f : BusAnswer Readback),
      ∃ s : State, s.busy = false ∧ s.schedule = [.access (.write 0x00 4 0x20)] ∧ s.pollAnswers = p :: [] ∧
        s.frameAnswers = f :: [] ∧ (0xFE : Byte) ≠ 0xFF :=
  fun p f => ⟨{ idle with schedule := [cmdWrite 0x20], pollAnswers := [p], frameAnswers := [f] }, rfl, rfl, rfl, rfl,
    by decide⟩

/-- No round and three rounds. -/
theorem witness_ReadblkCompletesWhenReady :
    ∀ n ∈ [0, 3], ∃ s : State, s.busy = false ∧ s.schedule = [.access (.write 0x00 4 0x30)] ∧
      s.pollAnswers = List.replicate n (.ok 0xFF) ++ .ok 0x3C :: [] ∧ (0x3C : Byte) ≠ 0xFF ∧
      s.frameAnswers = .ok (sevenOf 0xAA) :: [] :=
  fun n _ =>
    ⟨{ idle with
        schedule := [cmdWrite 0x30], pollAnswers := List.replicate n (.ok 0xFF) ++ [.ok 0x3C],
        frameAnswers := [.ok (sevenOf 0xAA)] }, rfl, rfl, rfl, by decide, rfl⟩

theorem witness_ReadblkHasNoTimeout :
    ∀ n ∈ [0, 3], ∃ s : State, s.busy = true ∧ s.phase = .polling ∧ s.lastCmd = 0x30 ∧ s.schedule = [] ∧
      s.pollAnswers = List.replicate n (.ok 0xFF) ++ [] :=
  fun n _ => ⟨{ busyIn .polling 0x30 with pollAnswers := List.replicate n (.ok 0xFF) ++ [] }, rfl, rfl, rfl, rfl, rfl⟩

theorem witness_ReadblkEndsOnBusError :
    ∀ n ∈ [0, 3], ∃ s : State, s.busy = false ∧ s.schedule = [.access (.write 0x00 4 0x30)] ∧
      s.pollAnswers = List.replicate n (.ok 0xFF) ++ .err 0xFFFFFFFF :: [] :=
  fun n _ =>
    ⟨{ idle with schedule := [cmdWrite 0x30], pollAnswers := List.replicate n (.ok 0xFF) ++ [.err 0xFFFFFFFF] },
      rfl, rfl, rfl⟩

/-- The second clause: a transfer that fails after a ready poll. -/
theorem witness_ReadblkEndsOnBusError_transfer :
    ∀ n ∈ [0, 3], ∃ s : State, s.busy = false ∧ s.schedule = [.access (.write 0x00 4 0x30)] ∧
      s.pollAnswers = List.replicate n (.ok 0xFF) ++ .ok 0xFE :: [] ∧ (0xFE : Byte) ≠ 0xFF ∧
      s.frameAnswers = .err 0xFFFFFFFF :: [] :=
  fun n _ =>
    ⟨{ idle with
        schedule := [cmdWrite 0x30], pollAnswers := List.replicate n (.ok 0xFF) ++ [.ok 0xFE],
        frameAnswers := [.err 0xFFFFFFFF] }, rfl, rfl, rfl, by decide, rfl⟩

theorem witness_OtherCommandsEndInTwoSteps :
    ∃ s : State, Inv s ∧ s.busy = true ∧ s.lastCmd ≠ 0x30 ∧ s.schedule = [] :=
  ⟨_, inv_polling, rfl, by decide, rfl⟩

theorem witness_ResetRunsToCompletion :
    ∀ a : BusAnswer Unit, ∃ s : State,
      s.busy = false ∧ s.schedule = [.access (.write 0x00 4 0x40)] ∧ s.burstAnswers = a :: [] :=
  fun a => ⟨{ idle with schedule := [cmdWrite 0x40], burstAnswers := [a] }, rfl, rfl, rfl⟩

theorem witness_ResetsAreIdempotent :
    ∀ n ∈ [1, 2], 1 ≤ n ∧ ∃ s : State, s.busy = false ∧
      s.schedule = (List.replicate n [Turn.access (.write 0x00 4 0x40), .sequencer]).flatten ∧
      s.burstAnswers = List.replicate n (.ok ()) ++ [] := by
  intro n hn
  refine ⟨by fin_cases hn <;> decide, ?_⟩
  exact ⟨{ idle with
    mode := .b32, schedule := (List.replicate n [cmdWrite 0x40, .sequencer]).flatten,
    burstAnswers := List.replicate n (.ok ()) ++ [] }, rfl, rfl, rfl⟩

/-- Program P2's answers, with READNB for its READBLK. -/
theorem witness_ModeReachesTheSecondRead :
    ∃ s : State, s.busy = false ∧ (0x12 : Byte) ≠ 0xFF ∧ (0x00 : Byte) ≠ 0xFF ∧
      s.schedule =
        [.access (.write 0x00 4 ((encode (setmode .b32)).setWidth 32)), .access (.write 0x00 4 0x20), .sequencer, .sequencer,
          .access (.write 0x00 4 0x20), .sequencer, .sequencer] ∧
      s.pollAnswers = .ok 0x12 :: .ok 0x00 :: [] ∧ s.frameAnswers = .ok (sevenOf 0x02) :: .ok (sevenOf 0xAA) :: [] :=
  ⟨{ idle with
      schedule :=
        [cmdWrite ((encode (setmode .b32)).setWidth 32), cmdWrite 0x20, .sequencer, .sequencer, cmdWrite 0x20, .sequencer,
          .sequencer]
      pollAnswers := [.ok 0x12, .ok 0x00], frameAnswers := [.ok (sevenOf 0x02), .ok (sevenOf 0xAA)] },
    rfl, by decide, by decide, rfl, rfl, rfl⟩

theorem witness_EveryStepKeepsTheInvariant :
    ∃ s t : State, Inv s ∧ step s = .next t ∧ t.phase ≠ s.phase := ⟨_, _, inv_polling, rfl, by decide⟩

theorem witness_ResultIsA24BitValue :
    Inv { idle with
      lastCmd := 0x20, done := true, valid := true, rx := sevenOf 0xAA, result := 0xFFFFFFFF } := by
  constructor <;> decide

/-- The three writers of MODE. -/
theorem witness_ModeHasThreeWriters :
    (∃ t, step { idle with schedule := [cmdWrite 0x11] } = .next t ∧ t.mode ≠ idle.mode) ∧
      (∃ t, step { busyIn .bursting 0x40 with mode := .a64, burstAnswers := [.ok ()] } = .next t ∧ t.mode ≠ .a64) ∧
      ∃ t, step { idle with mode := .b32, schedule := [.blockReset] } = .next t ∧ t.mode ≠ .b32 :=
  ⟨⟨_, rfl, by decide⟩, ⟨_, rfl, by decide⟩, ⟨_, rfl, by decide⟩⟩

/-- The two writers of adc_sel. -/
theorem witness_AdcSelHasTwoWriters :
    (∃ t, step { busyIn .transferring 0x20 with mode := .b32, frameAnswers := [.ok (sevenOf 0)] } = .next t ∧
      t.adcSel ≠ .a128) ∧
      ∃ t, step { busyIn .bursting 0x40 with adcSel := .a64, burstAnswers := [.ok ()] } = .next t ∧ t.adcSel ≠ .a64 :=
  ⟨⟨_, rfl, by decide⟩, ⟨_, rfl, by decide⟩⟩

theorem witness_ReadbackHasOneWriter :
    (∃ t, step { busyIn .transferring 0x20 with frameAnswers := [.ok (sevenOf 0x27)] } = .next t ∧
      t.rx ≠ Vector.replicate frameLen 0) ∧
      (∃ t, step { busyIn .polling 0x20 with pollAnswers := [.ok 0x3C] } = .next t ∧ t.pollRx ≠ 0) ∧
      ¬∃ rest, (busyIn .polling 0x20).schedule = .blockReset :: rest :=
  ⟨⟨_, rfl, by decide⟩, ⟨_, rfl, by decide⟩, by rintro ⟨rest, h⟩; cases h⟩

/-- A next state for the statements about every step. -/
theorem witness_ConfigurationIsFixed :
    ∃ t, step { busyIn .polling 0x20 with pollAnswers := [.ok 0x3C] } = .next t := ⟨_, rfl⟩

theorem witness_OneTransactionPerStep :
    ∃ t, step { busyIn .transferring 0x20 with frameAnswers := [.ok (sevenOf 0x27)] } = .next t ∧ t.log ≠ [] :=
  ⟨_, rfl, by decide⟩

theorem witness_ReadingChangesNothing :
    let s : State :=
      { idle with schedule := [.access (.read 0x1C 4), .wait, .access (.write 0x04 4 1), .access (.read 0x00 4)] }
    s.busy = false ∧ ∀ turn ∈ s.schedule, turnHarmless turn = true := ⟨rfl, by decide⟩

theorem witness_AdcSelDoesNotInterfere :
    ∃ t, step { busyIn .transferring 0x20 with frameAnswers := [.ok (sevenOf 0x27)] } = .next t ∧ t.valid = true :=
  ⟨_, rfl, rfl⟩

theorem witness_ParametersDoNotInterfere :
    let c : Config := { Config.reference with pollDelayMs := 7, fSck := 20000, maxTransfer := 64 }
    c.resetBytes = idle.cfg.resetBytes ∧ c.busErrW = idle.cfg.busErrW ∧ c ≠ idle.cfg ∧
      ∃ t, step (busyIn .delaying 0x30) = .next t := ⟨rfl, rfl, by decide, _, rfl⟩

end Sys2Proof.Tests
end

section
/-! PROOFS. The configuration is a launch constant (00_scope.md R12, 10_state.md R44): each operation that a step is made of
leaves it as it is. -/

namespace Sys2Proof.Machine

@[simp] theorem wordBody_cfg (w : Byte) (s : State) : (wordBody w s).cfg = s.cfg := by
  obtain ⟨m, -, h⟩ | ⟨-, h⟩ | ⟨-, h⟩ | ⟨-, h⟩ | ⟨-, h⟩ := wordBody_cases w <;> simp [h]

/-- A command leaves the configuration as it is, dropped or accepted, if what it does once accepted does. -/
theorem command_cfg {body : State → State} (hbody : ∀ s, (body s).cfg = s.cfg) (w : Byte) (s : State) :
    (command w body s).cfg = s.cfg := by
  cases h : s.busy with
  | true => simp [command_busy h]
  | false => simp [command_idle h, hbody]

@[simp] theorem pollStep_cfg (s : State) : (pollStep s).cfg = s.cfg := by
  obtain ⟨_, _, ⟨_, _, h⟩ | ⟨_, _, _, h⟩ | ⟨_, _, h⟩ | ⟨_, _, h⟩⟩ := pollStep_cases s <;> simp [h]

@[simp] theorem delayStep_cfg (s : State) : (delayStep s).cfg = s.cfg := rfl

@[simp] theorem transferStep_cfg (s : State) : (transferStep s).cfg = s.cfg := by
  obtain ⟨_, _, ⟨_, _, h⟩ | ⟨_, _, h⟩⟩ := transferStep_cases s <;> simp [h]

@[simp] theorem burstStep_cfg (s : State) : (burstStep s).cfg = s.cfg := by
  obtain ⟨_, _, ⟨_, _, h⟩ | ⟨_, h⟩⟩ := burstStep_cases s <;> simp [h]

@[simp] theorem sequencerStep_cfg (s : State) : (sequencerStep s).cfg = s.cfg := by
  cases h : s.phase with
  | idle => rw [sequencerStep_idle h]
  | polling => rw [sequencerStep_polling h, pollStep_cfg]
  | delaying => rw [sequencerStep_delaying h, delayStep_cfg]
  | transferring => rw [sequencerStep_transferring h, transferStep_cfg]
  | bursting => rw [sequencerStep_bursting h, burstStep_cfg]

@[simp] theorem waitTurn_cfg (s : State) : (waitTurn s).cfg = s.cfg := by
  unfold waitTurn
  split <;> rfl

theorem sequencerTurn_cfg {s t : State} (h : sequencerTurn s t) : t.cfg = s.cfg := by
  obtain ⟨rest, rfl⟩ := sequencerTurn_frame h
  rfl

theorem writesCmd_cfg {v : Word} {s t : State} (h : writesCmd v s t) : t.cfg = s.cfg := by
  obtain ⟨rest, -, rfl⟩ := h
  rfl

/-- Settles O50, by cases on the turn that the step takes: the turn and what it runs each leave the configuration alone. -/
theorem configurationIsFixed : Obligations.ConfigurationIsFixed := by
  intro s t hst
  have fixed {u : State} (h : step s = .next u) (hu : u.cfg = s.cfg) : t.cfg = s.cfg := by
    cases h.symm.trans hst
    exact hu
  obtain ⟨u, hu, h⟩ | ⟨v, u, hu, h⟩ | ⟨rest, off, v, -, -, h⟩ | ⟨rest, off, v, -, -, -, h⟩ | ⟨rest, a, -, -, h⟩ |
    ⟨rest, -, h⟩ | ⟨rest, -, h⟩ := step_cases s
  · exact fixed h ((sequencerStep_cfg u).trans (sequencerTurn_cfg hu))
  · exact fixed (h.trans (writeCmd_eq v u)) ((command_cfg (wordBody_cfg _) _ u).trans (writesCmd_cfg hu))
  · exact fixed h (emit_cfg _ _)
  · exact fixed h rfl
  · exact absurd hst (h t)
  · exact fixed h (waitTurn_cfg _)
  · exact fixed h (blockReset_cfg _)

end Sys2Proof.Machine
end

section
/-! PROOFS. What the transport's port delivers of an answer (00_scope.md R20, R23). -/

namespace Sys2Proof.Machine

@[simp] theorem portAnswer_ok {α : Type} (w : Nat) (a : α) : portAnswer w (.ok a) = .ok a := rfl

@[simp] theorem portAnswer_err {α : Type} (w : Nat) (e : Word) :
    (portAnswer w (.err e) : BusAnswer α) = .err (clipErr w e) := rfl

/-- The clipped error is the remainder itself: it is no larger than the carried value, so 32 bits hold it. -/
@[simp] theorem clipErr_toNat (w : Nat) (e : Word) : (clipErr w e).toNat = e.toNat % 2 ^ w := by
  have hlt : e.toNat % 2 ^ w < 2 ^ 32 := lt_of_le_of_lt (Nat.mod_le _ _) e.isLt
  rw [clipErr, BitVec.toNat_ofNat, Nat.mod_eq_of_lt hlt]

/-- Settles O28: the rules for taking an answer, listed or free, and what the port makes of it. -/
theorem answersComeFromTheEnvironment : Obligations.AnswersComeFromTheEnvironment :=
  ⟨fun _ _ _ => takePoll_cons, fun _ => takePoll_nil, fun _ _ _ => takeFrame_cons, fun _ => takeFrame_nil,
    fun _ _ _ => takeBurst_cons, fun _ => takeBurst_nil,
    fun w e => ⟨clipErr w e, portAnswer_err w e, clipErr_toNat w e, portAnswer_ok w⟩⟩

end Sys2Proof.Machine
end

section
/-! PROOFS. What a step writes, register by register: the one inversion of a step that has a next state, and for each
agent's turn the registers that R32, R42, R43 and R45 of 10_state.md give a few writers. -/

namespace Sys2Proof.Machine

/-- A reading of WAIT changes only what is scheduled and the record (30_encoding.md R115). -/
theorem waitTurn_frame (s : State) : ∃ rest log, waitTurn s = { s with schedule := rest, log := log } := by
  unfold waitTurn
  split <;> exact ⟨_, _, rfl⟩

/-- A step that has a next state is the sequencer's, a CMD write, a host turn that changes nothing of the block, or a block
reset. -/
theorem step_next_cases {s t : State} (hst : step s = .next t) :
    (∃ u, sequencerTurn s u ∧ t = sequencerStep u) ∨
      (∃ v u, writesCmd v s u ∧ t = command (commandByte v) (wordBody (commandByte v)) u) ∨
      (∃ rest log, t = { s with schedule := rest, log := log }) ∨
      (∃ rest, s.schedule = .blockReset :: rest ∧ t = blockReset { s with schedule := rest }) := by
  have isNext {u : State} (h : step s = .next u) : t = u := by
    cases h.symm.trans hst
    rfl
  obtain ⟨u, hu, h⟩ | ⟨v, u, hu, h⟩ | ⟨rest, off, v, -, -, h⟩ | ⟨rest, off, v, -, -, -, h⟩ | ⟨rest, a, -, -, h⟩ |
    ⟨rest, -, h⟩ | ⟨rest, hs, h⟩ := step_cases s
  · exact .inl ⟨u, hu, isNext h⟩
  · exact .inr (.inl ⟨v, u, hu, isNext (h.trans (writeCmd_eq v u))⟩)
  · exact .inr (.inr (.inl ⟨rest, _, isNext h⟩))
  · exact .inr (.inr (.inl ⟨rest, s.log, isNext h⟩))
  · exact absurd hst (h t)
  · obtain ⟨later, log, hw⟩ := waitTurn_frame { s with schedule := rest }
    exact .inr (.inr (.inl ⟨later, log, (isNext h).trans hw⟩))
  · exact .inr (.inr (.inr ⟨rest, hs, isNext h⟩))

/-- In its acceptance step a word writes none of adc_sel, RX and POLLRX. -/
theorem wordBody_frame (w : Byte) (s : State) :
    (wordBody w s).adcSel = s.adcSel ∧ (wordBody w s).rx = s.rx ∧ (wordBody w s).pollRx = s.pollRx := by
  obtain ⟨m, -, h⟩ | ⟨-, h⟩ | ⟨-, h⟩ | ⟨-, h⟩ | ⟨-, h⟩ := wordBody_cases w <;> simp [h]

/-- A CMD write, dropped or accepted, writes none of adc_sel, RX and POLLRX. -/
theorem command_frame (w : Byte) (s : State) :
    (command w (wordBody w) s).adcSel = s.adcSel ∧ (command w (wordBody w) s).rx = s.rx ∧
      (command w (wordBody w) s).pollRx = s.pollRx := by
  cases h : s.busy with
  | true => simp [command_busy h]
  | false => simpa [command_idle h] using wordBody_frame w (acceptWrites w s)

/-- A word that changes MODE in its acceptance step is the SETMODE of the new mode (R161). -/
theorem wordBody_mode (w : Byte) (s : State) :
    (wordBody w s).mode = s.mode ∨ decode w = .instr (setmode (wordBody w s).mode) := by
  obtain ⟨m, hw, h⟩ | ⟨-, h⟩ | ⟨-, h⟩ | ⟨-, h⟩ | ⟨-, h⟩ := wordBody_cases w
  · exact .inr (by simpa [h] using hw)
  all_goals exact .inl (by simp [h])

/-- A CMD write that changes MODE is an accepted SETMODE of the new mode. -/
theorem command_mode (w : Byte) (s : State) :
    (command w (wordBody w) s).mode = s.mode ∨
      (s.busy = false ∧ decode w = .instr (setmode (command w (wordBody w) s).mode)) := by
  cases h : s.busy with
  | true => exact .inl (by simp [command_busy h])
  | false =>
    rw [command_idle h]
    exact (wordBody_mode w (acceptWrites w s)).imp id fun hw => ⟨rfl, hw⟩

/-- The poll step writes POLLRX, with the byte captured, and none of MODE, adc_sel and RX (R183). -/
theorem pollStep_writes (s : State) :
    (pollStep s).mode = s.mode ∧ (pollStep s).adcSel = s.adcSel ∧ (pollStep s).rx = s.rx ∧
      ((pollStep s).pollRx = s.pollRx ∨ (takePoll s).1 = .ok (pollStep s).pollRx) := by
  obtain ⟨_, _, ⟨e, -, h⟩ | ⟨b, ha, -, h⟩ | ⟨ha, -, h⟩ | ⟨ha, -, h⟩⟩ := pollStep_cases s
  · simp [h]
  all_goals simp [h, ha]

/-- The transfer step writes adc_sel and RX, the latter with the bytes captured, and neither MODE nor POLLRX (R186, R187). -/
theorem transferStep_writes (s : State) :
    (transferStep s).mode = s.mode ∧ (transferStep s).pollRx = s.pollRx ∧
      ((transferStep s).rx = s.rx ∨ (takeFrame s).1 = .ok (transferStep s).rx) := by
  obtain ⟨_, _, ⟨e, -, h⟩ | ⟨rx, ha, h⟩⟩ := transferStep_cases s
  · simp [h]
  · simp [h, ha]

/-- The burst step writes adc_sel, and MODE if the burst was written, and neither RX nor POLLRX (R222, R223). -/
theorem burstStep_writes (s : State) :
    (burstStep s).rx = s.rx ∧ (burstStep s).pollRx = s.pollRx ∧
      ((burstStep s).mode = s.mode ∨ (takeBurst s).1 = .ok () ∧ (burstStep s).mode = .a128) := by
  obtain ⟨_, _, ⟨e, -, h⟩ | ⟨ha, h⟩⟩ := burstStep_cases s
  · simp [h]
  · simp [h, ha]

/-- The sequencer changes MODE only by a burst that was written. -/
theorem sequencerStep_mode (s : State) :
    (sequencerStep s).mode = s.mode ∨
      s.phase = .bursting ∧ (takeBurst s).1 = .ok () ∧ (sequencerStep s).mode = .a128 := by
  cases h : s.phase with
  | idle => exact .inl (by rw [sequencerStep_idle h])
  | polling => exact .inl (by rw [sequencerStep_polling h, (pollStep_writes s).1])
  | delaying => exact .inl (by rw [sequencerStep_delaying h]; rfl)
  | transferring => exact .inl (by rw [sequencerStep_transferring h, (transferStep_writes s).1])
  | bursting =>
    obtain ⟨-, -, hmode⟩ := burstStep_writes s
    rw [sequencerStep_bursting h]
    exact hmode.imp id fun hm => ⟨rfl, hm⟩

/-- The sequencer changes adc_sel only in a transfer or a burst. -/
theorem sequencerStep_adcSel (s : State) :
    (sequencerStep s).adcSel = s.adcSel ∨ s.phase = .transferring ∨ s.phase = .bursting := by
  cases h : s.phase with
  | idle => exact .inl (by rw [sequencerStep_idle h])
  | polling => exact .inl (by rw [sequencerStep_polling h, (pollStep_writes s).2.1])
  | delaying => exact .inl (by rw [sequencerStep_delaying h]; rfl)
  | transferring => exact .inr (.inl rfl)
  | bursting => exact .inr (.inr rfl)

/-- The sequencer changes RX only to what a transfer captured. -/
theorem sequencerStep_rx (s : State) :
    (sequencerStep s).rx = s.rx ∨ s.phase = .transferring ∧ (takeFrame s).1 = .ok (sequencerStep s).rx := by
  cases h : s.phase with
  | idle => exact .inl (by rw [sequencerStep_idle h])
  | polling => exact .inl (by rw [sequencerStep_polling h, (pollStep_writes s).2.2.1])
  | delaying => exact .inl (by rw [sequencerStep_delaying h]; rfl)
  | transferring =>
    obtain ⟨-, -, hrx⟩ := transferStep_writes s
    rw [sequencerStep_transferring h]
    exact hrx.imp id fun ha => ⟨rfl, ha⟩
  | bursting => exact .inl (by rw [sequencerStep_bursting h, (burstStep_writes s).1])

/-- The sequencer changes POLLRX only to what a poll captured. -/
theorem sequencerStep_pollRx (s : State) :
    (sequencerStep s).pollRx = s.pollRx ∨ s.phase = .polling ∧ (takePoll s).1 = .ok (sequencerStep s).pollRx := by
  cases h : s.phase with
  | idle => exact .inl (by rw [sequencerStep_idle h])
  | polling =>
    obtain ⟨-, -, -, hpoll⟩ := pollStep_writes s
    rw [sequencerStep_polling h]
    exact hpoll.imp id fun ha => ⟨rfl, ha⟩
  | delaying => exact .inl (by rw [sequencerStep_delaying h]; rfl)
  | transferring => exact .inl (by rw [sequencerStep_transferring h, (transferStep_writes s).2.1])
  | bursting => exact .inl (by rw [sequencerStep_bursting h, (burstStep_writes s).2.1])

/-- Settles O47, by cases on the turn that the step takes. -/
theorem modeHasThreeWriters : Obligations.ModeHasThreeWriters := by
  intro s t hst hne
  obtain ⟨u, hu, rfl⟩ | ⟨v, u, hu, rfl⟩ | ⟨rest, log, rfl⟩ | ⟨rest, hs, rfl⟩ := step_next_cases hst
  · obtain ⟨rest, rfl⟩ := sequencerTurn_frame hu
    obtain h | ⟨hp, ha, hm⟩ := sequencerStep_mode { s with schedule := rest }
    · exact absurd h hne
    · exact .inr (.inl ⟨_, hu, hp, ha, hm⟩)
  · obtain ⟨rest, hs, rfl⟩ := hu
    obtain h | ⟨hb, hd⟩ := command_mode (commandByte v) { s with schedule := rest }
    · exact absurd h hne
    · exact .inl ⟨v, _, ⟨rest, hs, rfl⟩, hb, hd⟩
  · exact absurd rfl hne
  · exact .inr (.inr ⟨⟨rest, hs⟩, rfl⟩)

/-- Settles O48, by cases on the turn that the step takes. -/
theorem adcSelHasTwoWriters : Obligations.AdcSelHasTwoWriters := by
  intro s t hst hne
  obtain ⟨u, hu, rfl⟩ | ⟨v, u, hu, rfl⟩ | ⟨rest, log, rfl⟩ | ⟨rest, -, rfl⟩ := step_next_cases hst
  · obtain ⟨rest, rfl⟩ := sequencerTurn_frame hu
    obtain h | hp := sequencerStep_adcSel { s with schedule := rest }
    · exact absurd h hne
    · exact ⟨⟨_, hu⟩, hp⟩
  · obtain ⟨rest, -, rfl⟩ := hu
    exact absurd (command_frame _ _).1 hne
  · exact absurd rfl hne
  · exact absurd rfl hne

/-- Settles O49, by cases on the turn that the step takes: a CMD write and the host's other turns keep both registers. -/
theorem readbackHasOneWriter : Obligations.ReadbackHasOneWriter := by
  intro s t hst hreset
  obtain ⟨u, hu, rfl⟩ | ⟨v, u, hu, rfl⟩ | ⟨rest, log, rfl⟩ | ⟨rest, hs, -⟩ := step_next_cases hst
  · obtain ⟨rest, rfl⟩ := sequencerTurn_frame hu
    constructor
    · intro hne
      obtain ⟨hp, ha⟩ := (sequencerStep_rx { s with schedule := rest }).resolve_left hne
      exact ⟨hp, _, hu, ha⟩
    · intro hne
      obtain ⟨hp, ha⟩ := (sequencerStep_pollRx { s with schedule := rest }).resolve_left hne
      exact ⟨hp, _, hu, ha⟩
  · obtain ⟨rest, -, rfl⟩ := hu
    obtain ⟨-, hrx, hpoll⟩ := command_frame (commandByte v) { s with schedule := rest }
    exact ⟨absurd hrx, absurd hpoll⟩
  · exact ⟨absurd rfl, absurd rfl⟩
  · exact absurd ⟨rest, hs⟩ hreset

end Sys2Proof.Machine
end

section
/-! PROOFS. The STATUS word (10_state.md R48): a field put at a bit position is read back there, and shows nowhere else. -/

namespace Sys2Proof.Machine

/-- A field of `k` bits put at bit `n` of a word. -/
def fieldAt (n : Nat) {k : Nat} (x : BitVec k) : Word := x.setWidth 32 <<< n

/-- The STATUS word as its fields, each at its place. -/
theorem statusWord_eq_fields (s : State) :
    statusWord s =
      fieldAt 16 s.pollRx ||| fieldAt 12 (phaseCode s.phase) ||| fieldAt 8 (modeCode s.mode) |||
        fieldAt 4 (codeNumber s.code) ||| fieldAt 3 (BitVec.ofBool s.overrun) ||| fieldAt 2 (BitVec.ofBool s.valid) |||
        fieldAt 1 (BitVec.ofBool s.done) ||| fieldAt 0 (BitVec.ofBool s.busy) := by
  simp [statusWord, flagWord, fieldAt]

/-- A field is read back at its place. -/
theorem fieldAt_same {n k : Nat} (x : BitVec k) (h : n + k ≤ 32) : (fieldAt n x).extractLsb' n k = x := by
  ext i hi
  have hin : n + i < 32 := by omega
  simp [fieldAt, hin, hi]

/-- A field shows nothing in the bits above it. -/
theorem fieldAt_above {n k a m : Nat} (x : BitVec k) (h : n + k ≤ a) : (fieldAt n x).extractLsb' a m = 0 := by
  ext i hi
  have hout : k ≤ a + i - n := by omega
  simp [fieldAt, BitVec.getLsbD_of_ge x _ hout]

/-- A field shows nothing in the bits below it. -/
theorem fieldAt_below {n k a m : Nat} (x : BitVec k) (h : a + m ≤ n) : (fieldAt n x).extractLsb' a m = 0 := by
  ext i hi
  have hout : a + i < n := by omega
  simp [fieldAt, hout]

theorem statusWord_blockReset (s : State) : statusWord (blockReset s) = 0 := by
  simp [statusWord, flagWord, phaseCode, modeCode, codeNumber]

/-- The launch state holds the reset values already (R31). -/
theorem blockReset_launch (c : Config) (m : Mode) : blockReset (State.launch c m) = State.launch c m := rfl

/-- Settles O13: the fields do not overlap, and a host write to STATUS reaches a register that ignores it. -/
theorem statusWordLayout : Obligations.StatusWordLayout := by
  refine ⟨fun s => ?_, fun s rest v hs => ?_, statusWord_blockReset, fun c m => ?_⟩
  · simp (disch := omega) only [statusWord_eq_fields, BitVec.extractLsb'_or, fieldAt_same, fieldAt_above,
      fieldAt_below]
    simp
  · rw [step_turn hs]
    exact hostAccess_write (off := 0x04) rfl rfl v _
  · rw [← blockReset_launch, statusWord_blockReset]

end Sys2Proof.Machine
end

section
/-! PROOFS. The invariant of the registers (10_state.md R34 to R41, 60_exceptions.md R260): what it takes in a block with a
command in progress and in one whose command has completed, then each operation that a step is made of. -/

namespace Sys2Proof.Machine

/-- A reading is a 24-bit value (R40): an arithmetic shift of a 32-bit word by 8. -/
theorem dec_toInt_bounds (rx : Readback) : -2 ^ 23 ≤ (dec rx).toInt ∧ (dec rx).toInt ≤ 2 ^ 23 - 1 := by
  have hlow := BitVec.le_toInt (placeBits rx 24)
  have hhigh := BitVec.toInt_lt (x := placeBits rx 24)
  rw [dec, BitVec.toInt_sshiftRight, Int.shiftRight_eq_div_pow]
  omega

/-- Settles O46: RESULT is a reading, or else 0. -/
theorem resultIsA24BitValue : Obligations.ResultIsA24BitValue := by
  intro s h
  cases hv : s.valid with
  | true => rw [h.valid_result hv]; exact dec_toInt_bounds s.rx
  | false => rw [h.invalid_result hv]; decide

/-- The invariant does not speak of adc_sel or of the model's own fields. -/
theorem Inv.of_same_registers {s : State} (h : Inv s) (sel : Mode) (turns : List Turn) (ps : List (BusAnswer Byte))
    (fs : List (BusAnswer Readback)) (bs : List (BusAnswer Unit)) (n : Nat) (log : List Event) :
    Inv { s with
      adcSel := sel, schedule := turns, pollAnswers := ps, frameAnswers := fs, burstAnswers := bs, draws := n,
      log := log } :=
  { h with }

/-- A block that a reset has just left meets the invariant, whatever it held before (R300). -/
theorem inv_blockReset (s : State) : Inv (blockReset s) := by
  constructor <;> simp [wordFields, CmdFields.wf, CmdFields.opIllegal]

/-- Settles O44: a launch state is one that a block reset leaves as it is. -/
theorem launchMeetsTheInvariant : Obligations.LaunchMeetsTheInvariant :=
  have launch (c : Config) (m : Mode) : Inv (State.launch c m) := blockReset_launch c m ▸ inv_blockReset _
  ⟨launch _ _, launch⟩

/-- The invariant in a block with a command in progress: the values of its acceptance, and a phase that is the command's. -/
theorem inv_of_busy {s : State} (busy : s.busy = true) (phase : s.phase ≠ .idle)
    (acceptance : s.done = false ∧ s.valid = false ∧ s.code = .ok ∧ s.result = 0 ∧ s.busErr = 0)
    (polling : s.phase = .polling → s.lastCmd = 0x20 ∨ s.lastCmd = 0x30)
    (delaying : s.phase = .delaying → s.lastCmd = 0x30 ∧ s.pollRx = 0xFF)
    (transferring : s.phase = .transferring → (s.lastCmd = 0x20 ∨ s.lastCmd = 0x30) ∧ s.pollRx ≠ 0xFF)
    (bursting : s.phase = .bursting → s.lastCmd = 0x40)
    (overrun : s.overrun = true → s.overrunMark ≠ none) : Inv s := by
  obtain ⟨hdone, hvalid, hcode, hresult, hbusErr⟩ := acceptance
  exact {
    busy_iff_phase := by simp [busy, phase]
    busy_shows_acceptance := fun _ => ⟨hdone, hvalid, hcode, hresult, hbusErr⟩
    polling_cmd := polling
    delaying_cmd := delaying
    transferring_cmd := transferring
    bursting_cmd := bursting
    valid_iff_read_ok := by simp [hvalid, hdone]
    valid_result := by simp [hvalid]
    invalid_result := fun _ => hresult
    no_error_busErr := fun _ => hbusErr
    busErr_width := by simp [hbusErr]
    code_done := by simp [hcode]
    wouldBlock_cmd := by simp [hcode]
    busError_cmd := by simp [hcode]
    unsupported_cmd := by simp [hcode]
    illegal_cmd := by simp [hcode, hdone]
    fresh := by simp [busy]
    overrun_marked := overrun }

/-- The invariant in a block whose command has completed: the values and the code are the command's. -/
theorem inv_of_completed {s : State} (busy : s.busy = false) (phase : s.phase = .idle) (done : s.done = true)
    (valid : s.valid = true ↔ s.code = .ok ∧ (s.lastCmd = 0x20 ∨ s.lastCmd = 0x30))
    (reading : s.valid = true → s.result = dec s.rx) (noReading : s.valid = false → s.result = 0)
    (noError : s.code ≠ .busError → s.busErr = 0) (width : s.busErr.toNat < 2 ^ s.cfg.busErrW)
    (wouldBlock : s.code = .wouldBlock → s.lastCmd = 0x20 ∧ s.pollRx = 0xFF)
    (busError : s.code = .busError → s.lastCmd = 0x20 ∨ s.lastCmd = 0x30 ∨ s.lastCmd = 0x40)
    (unsupported : s.code = .unsupported → s.lastCmd = 0x50 ∨ s.lastCmd = 0x60)
    (illegal : s.code = .illegal ↔ (wordFields s.lastCmd).wf = false)
    (overrun : s.overrun = true → s.overrunMark ≠ none) : Inv s where
  busy_iff_phase := by simp [busy, phase]
  busy_shows_acceptance := by simp [busy]
  polling_cmd := by simp [phase]
  delaying_cmd := by simp [phase]
  transferring_cmd := by simp [phase]
  bursting_cmd := by simp [phase]
  valid_iff_read_ok := by simpa [done] using valid
  valid_result := reading
  invalid_result := noReading
  no_error_busErr := noError
  busErr_width := width
  code_done := fun _ => done
  wouldBlock_cmd := wouldBlock
  busError_cmd := busError
  unsupported_cmd := unsupported
  illegal_cmd := by simpa [done] using illegal
  fresh := by simp [done]
  overrun_marked := overrun

/-! ### A CMD write -/

/-- A dropped write changes only OVERRUN and the mark (R264). -/
theorem Inv.dropCommand {s : State} (h : Inv s) (hb : s.busy = true) (w : Byte) : Inv (dropCommand w s) := by
  rw [dropCommand_eq]
  exact { h with
    fresh := by simp [hb]
    overrun_marked := by simp }

/-- The word of a SETMODE is well-formed and is no read command's (R106). -/
theorem setmode_word {w : Byte} {m : Mode} (h : decode w = .instr (setmode m)) :
    (wordFields w).wf = true ∧ w ≠ 0x20 ∧ w ≠ 0x30 := by
  have hw := word_of_decoded h
  cases m <;> subst hw <;> decide

/-- An accepted word leaves a block that meets the invariant, whatever the block held before (R261). -/
theorem inv_accepted (w : Byte) (s : State) : Inv (wordBody w (acceptWrites w s)) := by
  obtain ⟨m, hw, h⟩ | ⟨hw, h⟩ | ⟨hw, h⟩ | ⟨hw, h⟩ | ⟨hwf, h⟩ := wordBody_cases w <;> rw [h]
  · obtain ⟨hwf, h20, h30⟩ := setmode_word hw
    apply inv_of_completed <;> simp_all
  · apply inv_of_busy <;> simp_all
  · apply inv_of_busy <;> simp_all
  · have hwf : (wordFields w).wf = true := by obtain rfl | rfl := hw <;> rfl
    apply inv_of_completed <;> simp_all
  · apply inv_of_completed <;> simp [hwf]

theorem Inv.command {s : State} (h : Inv s) (w : Byte) : Inv (command w (wordBody w) s) := by
  cases hb : s.busy with
  | true => rw [command_busy hb]; exact h.dropCommand hb w
  | false => rw [command_idle hb]; exact inv_accepted w s

/-! ### The sequencer's steps -/

/-- A command that has a bus transaction has a well-formed word. -/
theorem busWord_wf {w : Byte} (h : w = 0x20 ∨ w = 0x30 ∨ w = 0x40) : (wordFields w).wf = true := by
  obtain rfl | rfl | rfl := h <;> rfl

theorem Inv.busy_of_phase {s : State} (h : Inv s) {p : Phase} (hp : s.phase = p) (hne : p ≠ .idle) : s.busy = true :=
  h.busy_iff_phase.mpr (hp ▸ hne)

/-- A bus error ends a command that has made a transaction (R263). -/
theorem Inv.raiseBusError {s : State} (h : Inv s) (hb : s.busy = true)
    (hcmd : s.lastCmd = 0x20 ∨ s.lastCmd = 0x30 ∨ s.lastCmd = 0x40) {e : Word} (he : e.toNat < 2 ^ s.cfg.busErrW) :
    Inv (raiseBusError e s) := by
  obtain ⟨-, hvalid, -, hresult, -⟩ := h.busy_shows_acceptance hb
  have hwf : (wordFields s.lastCmd).wf = true := busWord_wf hcmd
  have hmark := h.overrun_marked
  apply inv_of_completed <;> simp_all

theorem Inv.pollStep {s : State} (h : Inv s) (hp : s.phase = .polling) : Inv (pollStep s) := by
  have hb := h.busy_of_phase hp (by decide)
  have hacc := h.busy_shows_acceptance hb
  have hcmd := h.polling_cmd hp
  have hmark := h.overrun_marked
  obtain ⟨rest, n, ⟨e, ha, heq⟩ | ⟨b, -, hready, heq⟩ | ⟨-, hop, heq⟩ | ⟨-, hop, heq⟩⟩ := pollStep_cases s <;> rw [heq]
  · apply Inv.raiseBusError
    · exact h.of_same_registers ..
    · exact hb
    · exact hcmd.imp id .inl
    · exact takePoll_err_lt (s := s) ha
  · apply inv_of_busy <;> simp_all
  · have hreadnb : s.lastCmd = 0x20 := hcmd.resolve_right fun hc => by rw [hc] at hop; exact absurd hop (by decide)
    have hwf : (wordFields s.lastCmd).wf = true := busWord_wf (.inl hreadnb)
    apply inv_of_completed <;> simp_all
  · have hreadblk : s.lastCmd = 0x30 := hcmd.resolve_left fun hc => hop (by rw [hc]; rfl)
    apply inv_of_busy <;> simp_all

theorem Inv.delayStep {s : State} (h : Inv s) (hp : s.phase = .delaying) : Inv (delayStep s) := by
  have hb := h.busy_of_phase hp (by decide)
  obtain ⟨hcmd, -⟩ := h.delaying_cmd hp
  unfold Machine.delayStep
  exact inv_of_busy hb (by simp) (h.busy_shows_acceptance hb) (fun _ => .inr hcmd) (by simp) (by simp) (by simp)
    h.overrun_marked

theorem Inv.transferStep {s : State} (h : Inv s) (hp : s.phase = .transferring) : Inv (transferStep s) := by
  have hb := h.busy_of_phase hp (by decide)
  have hacc := h.busy_shows_acceptance hb
  obtain ⟨hcmd, -⟩ := h.transferring_cmd hp
  have hmark := h.overrun_marked
  obtain ⟨rest, n, ⟨e, ha, heq⟩ | ⟨rx, -, heq⟩⟩ := transferStep_cases s <;> rw [heq]
  · apply Inv.raiseBusError
    · exact h.of_same_registers ..
    · exact hb
    · exact hcmd.imp id .inl
    · exact takeFrame_err_lt (s := s) ha
  · have hwf : (wordFields s.lastCmd).wf = true := busWord_wf (hcmd.imp id .inl)
    apply inv_of_completed <;> simp_all

theorem Inv.burstStep {s : State} (h : Inv s) (hp : s.phase = .bursting) : Inv (burstStep s) := by
  have hb := h.busy_of_phase hp (by decide)
  have hacc := h.busy_shows_acceptance hb
  have hcmd := h.bursting_cmd hp
  have hmark := h.overrun_marked
  obtain ⟨rest, n, ⟨e, ha, heq⟩ | ⟨-, heq⟩⟩ := burstStep_cases s <;> rw [heq]
  · apply Inv.raiseBusError
    · exact h.of_same_registers ..
    · exact hb
    · exact .inr (.inr hcmd)
    · exact takeBurst_err_lt (s := s) ha
  · have hwf : (wordFields s.lastCmd).wf = true := busWord_wf (.inr (.inr hcmd))
    apply inv_of_completed <;> simp_all

theorem Inv.sequencerStep {s : State} (h : Inv s) : Inv (sequencerStep s) := by
  cases hp : s.phase with
  | idle => rw [sequencerStep_idle hp]; exact h
  | polling => rw [sequencerStep_polling hp]; exact h.pollStep hp
  | delaying => rw [sequencerStep_delaying hp]; exact h.delayStep hp
  | transferring => rw [sequencerStep_transferring hp]; exact h.transferStep hp
  | bursting => rw [sequencerStep_bursting hp]; exact h.burstStep hp

/-- Settles O45, by cases on the turn that the step takes: a CMD write and the sequencer keep the invariant, a block reset
establishes it, and the host's other turns change no register. -/
theorem everyStepKeepsTheInvariant : Obligations.EveryStepKeepsTheInvariant := by
  intro s t h hst
  obtain ⟨u, hu, rfl⟩ | ⟨v, u, hu, rfl⟩ | ⟨rest, log, rfl⟩ | ⟨rest, -, rfl⟩ := step_next_cases hst
  · obtain ⟨rest, rfl⟩ := sequencerTurn_frame hu
    apply Inv.sequencerStep
    exact h.of_same_registers ..
  · obtain ⟨rest, -, rfl⟩ := hu
    apply Inv.command
    exact h.of_same_registers ..
  · exact h.of_same_registers ..
  · exact inv_blockReset _

end Sys2Proof.Machine
end

section
/-! PROOFS. The host's register window (20_memory.md R70 to R77): its offsets and byte lanes, and what an access to it does. -/

namespace Sys2Proof.Machine

/-! ### Offsets -/

@[simp] theorem regAt_regOffset (r : HostReg) : regAt (regOffset r) = some r := by
  cases r <;> rfl

@[simp] theorem regOffset_mod_four (r : HostReg) : regOffset r % 4 = 0 := by
  cases r <;> rfl

/-- The window holds a register at every multiple of 4 (R70, R71). -/
theorem exists_regOffset_eq {off : Nat} (hal : off % 4 = 0) (hin : off < 0x20) : ∃ r, regOffset r = off := by
  obtain ⟨slot, rfl⟩ := Nat.dvd_of_mod_eq_zero hal
  have hslot : slot < 8 := by omega
  interval_cases slot
  exacts [⟨.cmd, rfl⟩, ⟨.status, rfl⟩, ⟨.result, rfl⟩, ⟨.buserr, rfl⟩, ⟨.rxlo, rfl⟩, ⟨.rxhi, rfl⟩, ⟨.rstlen, rfl⟩,
    ⟨.reserved, rfl⟩]

/-- The window ends at 0x1F (R70, R73). -/
theorem regAt_outside {off : Nat} (h : 0x20 ≤ off) : regAt off = none := by
  simp (disch := omega) only [regAt, if_neg]

/-- An access the block gives a meaning to is a 32-bit one at a register's offset. -/
theorem exists_reg_of_wf {a : HostAccess} (h : a.wf = true) : ∃ r, a.off = regOffset r ∧ a.size = 4 := by
  simp only [HostAccess.wf, HostAccess.aligned, HostAccess.inWindow, Bool.and_eq_true, beq_iff_eq,
    decide_eq_true_eq] at h
  obtain ⟨⟨hsize, hal⟩, hin⟩ := h
  obtain ⟨r, hr⟩ := exists_regOffset_eq hal hin
  exact ⟨r, hr.symm, hsize⟩

/-! ### Byte lanes -/

/-- A word made of four lanes holds each of them as a field at its place (R71, R75). -/
theorem wordOfLanes_eq_fields (b0 b1 b2 b3 : Byte) :
    wordOfLanes b0 b1 b2 b3 = fieldAt 24 b3 ||| fieldAt 16 b2 ||| fieldAt 8 b1 ||| fieldAt 0 b0 := by
  refine BitVec.eq_of_getLsbD_eq fun j hj => ?_
  simp only [wordOfLanes, fieldAt, BitVec.getLsbD_append, BitVec.getLsbD_or, BitVec.getLsbD_shiftLeft,
    BitVec.getLsbD_setWidth]
  grind

/-- A lane is read back at its place. -/
theorem byteLane_wordOfLanes (lane : Nat → Byte) {k : Nat} (hk : k < 4) :
    byteLane (wordOfLanes (lane 0) (lane 1) (lane 2) (lane 3)) k = lane k := by
  rw [byteLane, wordOfLanes_eq_fields]
  interval_cases k <;>
    (simp (disch := omega) only [BitVec.extractLsb'_or, fieldAt_same, fieldAt_above, fieldAt_below]; simp)

/-- The byte of a register's slot at lane `k` (R75). -/
theorem windowByte_regOffset (r : HostReg) {k : Nat} (hk : k < 4) (s : State) :
    windowByte (regOffset r + k) s = byteLane (readReg r s) k := by
  have hal := regOffset_mod_four r
  have hslot : 4 * ((regOffset r + k) / 4) = regOffset r := by omega
  have hlane : (regOffset r + k) % 4 = k := by omega
  unfold windowByte
  rw [hslot, hlane, regAt_regOffset]

/-- Lane k of RXLO is RX[k] (R71). -/
theorem byteLane_rxlo {k : Nat} (hk : k < 4) (s : State) : byteLane (readReg .rxlo s) k = s.rx.getD k 0 :=
  byteLane_wordOfLanes (fun i => s.rx.getD i 0) hk

/-- A readback has seven bytes (R42): there is no RX[7]. -/
theorem rx_getD_seven (rx : Readback) : rx.getD 7 0 = 0 := by simp [Vector.getD]

/-- Lane k of RXHI is RX[4 + k], the lane after RX[6] being 0 (R71). -/
theorem byteLane_rxhi {k : Nat} (hk : k < 4) (s : State) : byteLane (readReg .rxhi s) k = s.rx.getD (4 + k) 0 := by
  have hlane := byteLane_wordOfLanes (fun i => s.rx.getD (4 + i) 0) hk
  rw [rx_getD_seven] at hlane
  exact hlane

/-- Settles O19, by the lanes of a register's slot and those of RXLO and RXHI. -/
theorem windowIsLittleEndian : Obligations.WindowIsLittleEndian := by
  intro s
  have rxlo {k : Nat} (hk : k < 4) : windowByte (0x10 + k) s = s.rx.getD k 0 :=
    (windowByte_regOffset .rxlo hk s).trans (byteLane_rxlo hk s)
  have rxhi {k : Nat} (hk : k < 4) : windowByte (0x14 + k) s = s.rx.getD (4 + k) 0 :=
    (windowByte_regOffset .rxhi hk s).trans (byteLane_rxhi hk s)
  have afterRx : windowByte 0x17 s = 0 := (rxhi (k := 3) (by decide)).trans (rx_getD_seven s.rx)
  refine ⟨fun r k hk => windowByte_regOffset r hk s, fun k hk => ?_, afterRx⟩
  by_cases hlo : k < 4
  · exact rxlo hlo
  · obtain ⟨i, rfl⟩ := Nat.exists_eq_add_of_le (Nat.le_of_not_lt hlo)
    rw [← Nat.add_assoc]
    exact rxhi (by omega)

/-! ### Accesses -/

/-- The value of a register does not depend on what is scheduled. -/
theorem readReg_schedule (r : HostReg) (s : State) (rest : List Turn) :
    readReg r { s with schedule := rest } = readReg r s := by
  cases r <;> rfl

/-- A read of a register returns its value and changes nothing of the block (R72). -/
theorem step_read {s : State} {r : HostReg} {rest : List Turn}
    (h : s.schedule = .access (.read (regOffset r) 4) :: rest) :
    step s = .next { s with schedule := rest, log := .hostRead (regOffset r) (readReg r s) :: s.log } := by
  rw [step_turn h, ← readReg_schedule r s rest]
  exact hostAccess_read (regOffset_mod_four r) (regAt_regOffset r) _

/-- A write to a register other than CMD has no effect (R77). -/
theorem step_write {s : State} {r : HostReg} {v : Word} {rest : List Turn} (hr : r ≠ .cmd)
    (h : s.schedule = .access (.write (regOffset r) 4 v) :: rest) : step s = .next { s with schedule := rest } := by
  have ignored (u : State) : hostWrite r v u = .next u := by
    cases r with
    | cmd => exact absurd rfl hr
    | status | result | buserr | rxlo | rxhi | rstlen | reserved => rfl
  rw [step_turn h, ← ignored]
  exact hostAccess_write (regOffset_mod_four r) (regAt_regOffset r) v _

/-- An access that is not an aligned 32-bit one has no step (R74). -/
theorem hostAccess_misaligned {a : HostAccess} (h : ¬(a.size = 4 ∧ a.off % 4 = 0)) (s : State) :
    hostAccess a s = .refused (.notAlignedWord a.off a.size) := by
  have hal : a.aligned = false := by simpa [HostAccess.aligned] using h
  simp [hostAccess, hal]

/-- An aligned access at an offset that holds no register is not the block's (log entry 9). -/
theorem hostAccess_outside {a : HostAccess} (hsize : a.size = 4) (hal : a.off % 4 = 0) (hout : 0x20 ≤ a.off)
    (s : State) : hostAccess a s = .fault (.outsideWindow a.off) := by
  simp [hostAccess, HostAccess.aligned, hsize, hal, regAt_outside hout]

/-- Settles O16: the alignment is checked before the state is looked at. -/
theorem misalignedAccessIsRefused : Obligations.MisalignedAccessIsRefused := by
  intro s rest a hs h
  rw [step_turn hs]
  exact hostAccess_misaligned h _

/-- Settles O17: no register is at 0x20 or more. -/
theorem accessOutsideWindowFaults : Obligations.AccessOutsideWindowFaults := by
  intro s rest a hs hsize hal hout
  rw [step_turn hs]
  exact hostAccess_outside hsize hal hout _

/-- Settles O14: each listed pair is a register's offset and its value. -/
theorem hostReadsReturnRegisters : Obligations.HostReadsReturnRegisters := by
  intro s rest off v hmem hs
  obtain ⟨r, rfl, rfl⟩ : ∃ r, off = regOffset r ∧ v = readReg r s := by
    simp only [List.mem_cons, Prod.mk.injEq, List.not_mem_nil, or_false] at hmem
    obtain ⟨rfl, rfl⟩ | ⟨rfl, rfl⟩ | ⟨rfl, rfl⟩ | ⟨rfl, rfl⟩ | ⟨rfl, rfl⟩ | ⟨rfl, rfl⟩ | ⟨rfl, rfl⟩ | ⟨rfl, rfl⟩ := hmem
    · exact ⟨.cmd, rfl, rfl⟩
    · exact ⟨.status, rfl, rfl⟩
    · exact ⟨.result, rfl, rfl⟩
    · exact ⟨.buserr, rfl, rfl⟩
    · exact ⟨.rxlo, rfl, by simp [readReg, wordOfLanes_eq_fields, fieldAt]⟩
    · exact ⟨.rxhi, rfl, by simp [readReg, wordOfLanes_eq_fields, fieldAt]⟩
    · exact ⟨.rstlen, rfl, rfl⟩
    · exact ⟨.reserved, rfl, rfl⟩
  exact step_read hs

/-- Settles O15: the listed offsets are those of the registers other than CMD, and a CMD write is that of its low byte. -/
theorem otherWritesAreIgnored : Obligations.OtherWritesAreIgnored := by
  refine ⟨fun s rest off v hmem hs => ?_, fun s rest hs => step_read (r := .reserved) hs, fun s rest v v' hv => ?_⟩
  · obtain ⟨r, hr, rfl⟩ : ∃ r, r ≠ .cmd ∧ off = regOffset r := by
      simp only [List.mem_cons, List.not_mem_nil, or_false] at hmem
      obtain rfl | rfl | rfl | rfl | rfl | rfl | rfl := hmem
      exacts [⟨.status, by decide, rfl⟩, ⟨.result, by decide, rfl⟩, ⟨.buserr, by decide, rfl⟩, ⟨.rxlo, by decide, rfl⟩,
        ⟨.rxhi, by decide, rfl⟩, ⟨.rstlen, by decide, rfl⟩, ⟨.reserved, by decide, rfl⟩]
    exact step_write hr hs
  · have sameByte : commandByte v = commandByte v' := hv
    rw [step_writesCmd ⟨rest, rfl, rfl⟩, step_writesCmd ⟨rest, rfl, rfl⟩, writeCmd_eq, writeCmd_eq, sameByte]

end Sys2Proof.Machine
end

section
/-! PROOFS. What a step puts on the ports (20_memory.md R81, R84): the record after each agent's turn. -/

namespace Sys2Proof.Machine

/-- The acceptance step of a word makes no transaction. -/
@[simp] theorem wordBody_log (w : Byte) (s : State) : (wordBody w s).log = s.log := by
  obtain ⟨m, -, h⟩ | ⟨-, h⟩ | ⟨-, h⟩ | ⟨-, h⟩ | ⟨-, h⟩ := wordBody_cases w <;> simp [h]

/-- A CMD write, dropped or accepted, makes no transaction. -/
@[simp] theorem command_log (w : Byte) (s : State) : (command w (wordBody w) s).log = s.log := by
  cases h : s.busy with
  | true => simp [command_busy h]
  | false => simp [command_idle h]

theorem pollStep_log (s : State) : ∃ a, (pollStep s).log = .transfer [0x00] a :: s.log := by
  obtain ⟨_, _, ⟨_, _, h⟩ | ⟨_, _, _, h⟩ | ⟨_, _, h⟩ | ⟨_, _, h⟩⟩ := pollStep_cases s <;> exact ⟨_, by rw [h]; rfl⟩

@[simp] theorem delayStep_log (s : State) : (delayStep s).log = .delay s.cfg.pollDelayMs :: s.log := rfl

/-- A reading is recorded only with the transfer it came from (R188). -/
theorem transferStep_log (s : State) :
    (∃ a, (transferStep s).log = .transfer (encFrame s.mode) a :: s.log) ∨
      ∃ rx, (transferStep s).log =
        .reading (dec rx) s.adcSel :: .transfer (encFrame s.mode) (.ok rx.toList) :: s.log := by
  obtain ⟨_, _, ⟨_, _, h⟩ | ⟨rx, _, h⟩⟩ := transferStep_cases s
  · exact .inl ⟨_, by rw [h]; rfl⟩
  · exact .inr ⟨rx, by rw [h]; rfl⟩

theorem burstStep_log (s : State) :
    ∃ a, (burstStep s).log = .busWrite (List.replicate s.cfg.resetBytes.toNat 0xFF) a :: s.log := by
  obtain ⟨_, _, ⟨_, _, h⟩ | ⟨_, h⟩⟩ := burstStep_cases s <;> exact ⟨_, by rw [h]; rfl⟩

/-- The sequencer puts on the ports what its phase says, and an idle one nothing (R81, R84). -/
theorem sequencerStep_log (s : State) :
    (sequencerStep s).log = s.log ∨
      (s.phase = .delaying ∧ (sequencerStep s).log = .delay s.cfg.pollDelayMs :: s.log) ∨
      (s.phase = .polling ∧ ∃ a, (sequencerStep s).log = .transfer [0x00] a :: s.log) ∨
      (s.phase = .transferring ∧ ∃ a, (sequencerStep s).log = .transfer (encFrame s.mode) a :: s.log) ∨
      (s.phase = .transferring ∧ ∃ rx, (sequencerStep s).log =
        .reading (dec rx) s.adcSel :: .transfer (encFrame s.mode) (.ok rx.toList) :: s.log) ∨
      (s.phase = .bursting ∧
        ∃ a, (sequencerStep s).log = .busWrite (List.replicate s.cfg.resetBytes.toNat 0xFF) a :: s.log) := by
  cases hp : s.phase with
  | idle => exact .inl (by rw [sequencerStep_idle hp])
  | polling =>
    rw [sequencerStep_polling hp]
    exact .inr (.inr (.inl ⟨rfl, pollStep_log s⟩))
  | delaying =>
    rw [sequencerStep_delaying hp]
    exact .inr (.inl ⟨rfl, delayStep_log s⟩)
  | transferring =>
    rw [sequencerStep_transferring hp]
    obtain hlog | hlog := transferStep_log s
    · exact .inr (.inr (.inr (.inl ⟨rfl, hlog⟩)))
    · exact .inr (.inr (.inr (.inr (.inl ⟨rfl, hlog⟩))))
  | bursting =>
    rw [sequencerStep_bursting hp]
    exact .inr (.inr (.inr (.inr (.inr ⟨rfl, burstStep_log s⟩))))

@[simp] theorem waitTurn_log (s : State) : (waitTurn s).log = .hostRead 0x04 (statusWord s) :: s.log := by
  unfold waitTurn
  split <;> rfl

/-- Settles O51, by cases on the turn that the step takes. -/
theorem oneTransactionPerStep : Obligations.OneTransactionPerStep := by
  intro s t hst
  have isNext {u : State} (h : step s = .next u) : t = u := Host.Outcome.next.inj (hst.symm.trans h)
  obtain ⟨u, hu, h⟩ | ⟨v, u, ⟨rest, -, rfl⟩, h⟩ | ⟨rest, off, v, -, -, h⟩ | ⟨rest, off, v, -, -, -, h⟩ |
    ⟨rest, a, -, -, h⟩ | ⟨rest, -, h⟩ | ⟨rest, -, h⟩ := step_cases s
  · obtain ⟨rest, rfl⟩ := sequencerTurn_frame hu
    rw [isNext h]
    exact (sequencerStep_log _).imp id .inr
  · rw [isNext (h.trans (writeCmd_eq v _))]
    exact .inl (command_log _ _)
  · rw [isNext h]
    exact .inr (.inl ⟨off, v, rfl⟩)
  · rw [isNext h]
    exact .inl rfl
  · exact absurd hst (h t)
  · rw [isNext h]
    exact .inr (.inl ⟨_, _, waitTurn_log _⟩)
  · rw [isNext h]
    exact .inl rfl

end Sys2Proof.Machine
end

section
/-! PROOFS. A host that only reads, waits, and writes other registers than CMD (20_memory.md R78, R80, R85): one of its turns,
and then any number of them. -/

namespace Sys2Proof.Machine

/-- WAIT on an idle block is one reading of STATUS (30_encoding.md R115). -/
theorem waitTurn_idle {s : State} (h : s.busy = false) :
    waitTurn s = emit (.hostRead (regOffset .status) (statusWord s)) s := if_neg (by simp [h])

/-- A harmless turn on an idle block changes nothing but the schedule, and adds to the record only what the host reads. -/
theorem step_harmless {s : State} {turn : Turn} {rest : List Turn} (hs : s.schedule = turn :: rest)
    (hidle : s.busy = false) (hturn : turnHarmless turn = true) :
    ∃ reads, step s = .next { s with schedule := rest, log := reads ++ s.log } := by
  cases turn with
  | access a =>
    cases a with
    | read off size =>
      obtain ⟨r, rfl, rfl⟩ : ∃ r, off = regOffset r ∧ size = 4 := exists_reg_of_wf hturn
      exact ⟨[_], step_read hs⟩
    | write off size v =>
      simp only [turnHarmless, Bool.and_eq_true, bne_iff_ne] at hturn
      obtain ⟨hwf, hoff⟩ := hturn
      obtain ⟨r, rfl, rfl⟩ : ∃ r, off = regOffset r ∧ size = 4 := exists_reg_of_wf hwf
      exact ⟨[], step_write (fun hcmd => hoff (congrArg regOffset hcmd)) hs⟩
  | wait =>
    exact ⟨[.hostRead (regOffset .status) (statusWord s)],
      (step_turn hs).trans (congrArg Host.Outcome.next (waitTurn_idle (s := { s with schedule := rest }) hidle))⟩
  | sequencer => cases hturn
  | blockReset => cases hturn

/-- Settles O52, by induction on the schedule: each turn leaves an idle block idle, with the rest of the turns to take. -/
theorem readingChangesNothing : Obligations.ReadingChangesNothing := by
  intro s hidle hharmless
  induction hs : s.schedule generalizing s with
  | nil => exact ⟨[], by rw [List.length_nil, runSteps, ← hs, List.nil_append]⟩
  | cons turn rest ih =>
    rw [hs] at hharmless
    obtain ⟨hturn, hrest⟩ := List.forall_mem_cons.mp hharmless
    obtain ⟨first, hstep⟩ := step_harmless hs hidle hturn
    obtain ⟨later, hrun⟩ := ih { s with schedule := rest, log := first ++ s.log } hidle hrest rfl
    refine ⟨later ++ first, ?_⟩
    rw [List.length_cons, runSteps, hstep, List.append_assoc]
    exact hrun

end Sys2Proof.Machine
end

section
/-! PROOFS. The command words (30_encoding.md R100 to R109): a word and its fields, the legal fields, and the decoder against
the encoder. -/

namespace Sys2Proof

/-! ### A word and its fields -/

/-- OP, bits 7:4, as a number (R100). -/
@[simp] theorem wordFields_op_toNat (w : Byte) : (wordFields w).op.toNat = w.toNat / 16 := by
  have hw := w.isLt
  simp only [wordFields, BitVec.extractLsb'_toNat, Nat.shiftRight_eq_div_pow]
  omega

/-- RSV, bits 3:2, as a number (R100). -/
@[simp] theorem wordFields_rsv_toNat (w : Byte) : (wordFields w).rsv.toNat = w.toNat / 4 % 4 := by
  simp [wordFields, Nat.shiftRight_eq_div_pow]

/-- M, bits 1:0, as a number (R100). -/
@[simp] theorem wordFields_m_toNat (w : Byte) : (wordFields w).m.toNat = w.toNat % 4 := by
  simp [wordFields]

/-- The three fields are the whole word (R100). -/
theorem packFields_wordFields (w : Byte) : packFields (wordFields w) = w := by
  refine BitVec.eq_of_getLsbD_eq fun j hj => ?_
  simp only [packFields, wordFields, BitVec.getLsbD_append, BitVec.getLsbD_extractLsb']
  grind

/-! ### The legal fields -/

/-- The four cases of R106 in plain arithmetic. -/
theorem CmdFields.wf_eq_false_iff (f : CmdFields) :
    f.wf = false ↔
      (f.op.toNat = 0 ∨ 7 ≤ f.op.toNat) ∨ f.rsv.toNat ≠ 0 ∨
        (2 ≤ f.op.toNat ∧ f.op.toNat ≤ 6 ∧ f.m.toNat ≠ 0) ∨ (f.op.toNat = 1 ∧ f.m.toNat = 3) := by
  simp only [CmdFields.wf, CmdFields.opIllegal, CmdFields.rsvIllegal, CmdFields.operandIllegal, CmdFields.modeIllegal,
    Bool.not_eq_false', Bool.or_eq_true, Bool.and_eq_true, beq_iff_eq, bne_iff_ne, decide_eq_true_eq, ne_eq,
    BitVec.toNat_eq, BitVec.reduceToNat, and_assoc, or_assoc]

/-- Fields that none of the cases of R106 rejects are those of a command: OP is SETMODE and M names a mode, or OP is another
of the six operations and M is 0. -/
theorem CmdFields.exists_instr_of_wf {f : CmdFields} (h : f.wf = true) : ∃ i, instrFields i = f := by
  obtain ⟨op, rsv, m⟩ := f
  rw [← Bool.not_eq_false, CmdFields.wf_eq_false_iff] at h
  dsimp only at h
  obtain rfl : rsv = 0 := by bv_omega
  by_cases hop : op = 1
  · obtain rfl | rfl | rfl : m = 0 ∨ m = 1 ∨ m = 2 := by bv_omega
    all_goals subst hop
    exacts [⟨.setmodeA128, rfl⟩, ⟨.setmodeB32, rfl⟩, ⟨.setmodeA64, rfl⟩]
  · obtain rfl : m = 0 := by bv_omega
    obtain rfl | rfl | rfl | rfl | rfl : op = 2 ∨ op = 3 ∨ op = 4 ∨ op = 5 ∨ op = 6 := by bv_omega
    exacts [⟨.readnb, rfl⟩, ⟨.readblk, rfl⟩, ⟨.reset, rfl⟩, ⟨.pwrdn, rfl⟩, ⟨.pwrup, rfl⟩]

/-! ### Decode and encode -/

@[simp] theorem decode_encode (i : Instr) : decode (encode i) = .instr i := by
  cases i <;> rfl

@[simp] theorem wf_wordFields_encode (i : Instr) : (wordFields (encode i)).wf = true := by
  cases i <;> rfl

/-- The words with legal fields are the words of the commands. -/
theorem exists_encode_of_wf {w : Byte} (h : (wordFields w).wf = true) : ∃ i, encode i = w := by
  obtain ⟨i, hi⟩ := CmdFields.exists_instr_of_wf h
  exact ⟨i, by rw [encode, hi, packFields_wordFields]⟩

/-- Decode rejects exactly the words whose fields are not legal (R106, R108). -/
theorem decode_illegal_iff (w : Byte) : (∃ why, decode w = .illegal why) ↔ (wordFields w).wf = false := by
  cases hd : decode w with
  | instr i =>
    obtain rfl := Machine.word_of_decoded hd
    simp
  | illegal why =>
    have notLegal : (wordFields w).wf ≠ true := fun hwf => by
      obtain ⟨i, rfl⟩ := exists_encode_of_wf hwf
      cases (decode_encode i).symm.trans hd
    simpa using notLegal

/-- Settles O2: a word is packed from its fields, and legal fields are a command's. -/
theorem decodeInvertsEncode : Obligations.DecodeInvertsEncode := by
  refine ⟨decode_encode, fun w i => Machine.word_of_decoded, fun w => ?_⟩
  rw [decode_illegal_iff, CmdFields.wf_eq_false_iff, wordFields_op_toNat, wordFields_rsv_toNat, wordFields_m_toNat]

/-- Settles O1: the rows of the table are the commands with their words, so a word outside it decodes to no command. -/
theorem eightWordsAreLegal : Obligations.EightWordsAreLegal := by
  unfold Obligations.EightWordsAreLegal
  intro table
  have rowIsEncoded : ∀ row ∈ table, encode row.2 = row.1 := by decide
  have everyCommandHasARow (i : Instr) : encode i ∈ table.map Prod.fst := by cases i <;> decide
  refine ⟨fun row hrow => ?_, fun w hw => ?_⟩
  · rw [← rowIsEncoded row hrow]
    exact ⟨decode_encode row.2, rfl⟩
  · cases hd : decode w with
    | instr i => exact absurd (Machine.word_of_decoded hd ▸ everyCommandHasARow i) hw
    | illegal why => exact ⟨why, rfl⟩

end Sys2Proof
end

section
/-! PROOFS. The assembler's command lines (30_encoding.md R113): the text of each command, and the turn that a line means. -/

namespace Sys2Proof.Machine

/-- The line of text of a command (R113). -/
def commandText : Instr → String
  | .setmodeA128 => "SETMODE A128"
  | .setmodeB32 => "SETMODE B32"
  | .setmodeA64 => "SETMODE A64"
  | .readnb => "READNB"
  | .readblk => "READBLK"
  | .reset => "RESET"
  | .pwrdn => "PWRDN"
  | .pwrup => "PWRUP"

/-- The assembler reads a command's text as that command. -/
theorem parseLine_commandText (i : Instr) : parseLine (commandText i) = some (.command i) := by
  cases i <;> decide

/-- A command line is one write of the command's word to CMD. -/
theorem asmTurns_command (i : Instr) :
    asmTurns (.command i) = [.access (.write 0x00 4 ((encode i).setWidth 32))] := rfl

/-- A raw word line is one write of its byte to CMD, legal or not. -/
theorem asmTurns_word (b : Byte) : asmTurns (.word b) = [.access (.write 0x00 4 (b.setWidth 32))] := rfl

/-- The text of a command means one write of its word to CMD. -/
theorem commandText_turns (i : Instr) :
    (parseLine (commandText i)).map asmTurns = some [.access (.write 0x00 4 ((encode i).setWidth 32))] := by
  rw [parseLine_commandText, Option.map_some, asmTurns_command]

/-- Settles O3: eight of the lines are the commands' texts beside their words, the ninth is a raw word. -/
theorem assemblerWritesCommandWords : Obligations.AssemblerWritesCommandWords := by
  have rawWord : parseLine ".word 0x13 ; illegal" = some (.word 0x13) := by decide
  have rawWord_turns : (parseLine ".word 0x13 ; illegal").map asmTurns =
      some [.access (.write 0x00 4 ((0x13 : Byte).setWidth 32))] := by
    rw [rawWord, Option.map_some, asmTurns_word]
  refine ⟨?_, asmTurns_word⟩
  simp only [List.forall_mem_cons]
  exact ⟨commandText_turns .setmodeA128, commandText_turns .setmodeB32, commandText_turns .setmodeA64,
    commandText_turns .readnb, commandText_turns .readblk, commandText_turns .reset, commandText_turns .pwrdn,
    commandText_turns .pwrup, rawWord_turns, nofun⟩

end Sys2Proof.Machine
end

section
/-! PROOFS. The host's WAIT (30_encoding.md R115). -/

namespace Sys2Proof.Machine

/-- One reading of STATUS, and what is then scheduled, by BUSY (R115; log entry 10). -/
theorem waitTurn_eq (s : State) :
    waitTurn s =
      { s with
        schedule := if s.busy then .sequencer :: .wait :: s.schedule else s.schedule
        log := .hostRead 0x04 (statusWord s) :: s.log } := by
  by_cases h : s.busy = true
  · rw [if_pos h]
    exact if_pos h
  · rw [if_neg h]
    exact if_neg h

/-- Settles O20: the step takes WAIT's turn, whose reading does not depend on what is scheduled. -/
theorem waitReadsStatusUntilIdle : Obligations.WaitReadsStatusUntilIdle := by
  intro s rest hs
  have takesWait : step s = .next (waitTurn { s with schedule := rest }) := step_turn hs
  rw [takesWait, waitTurn_eq]
  rfl

end Sys2Proof.Machine
end

section
/-! PROOFS. The clock train on the wire (40_codec.md sections 1, 2 and 4): what a clock byte adds to the pulses and to the
high phases of what follows it, the line after the last byte, and the reset burst. -/

namespace Sys2Proof.Machine

theorem wireBits_cons (b : Byte) (bs : List Byte) : wireBits (b :: bs) = byteBits b ++ wireBits bs := List.flatMap_cons

theorem byteBits_clockByte : byteBits clockByte = [true, false, true, false, true, false, true, false] := by decide

/-! ### The read frame and the poll -/

/-- A clock byte adds four pulses to those of what follows, which starts from a low line again (R131). -/
theorem pulses_clockByte_cons (bs : List Byte) : pulses (clockByte :: bs) = 4 + pulses bs := by
  rw [pulses, wireBits_cons, byteBits_clockByte]
  simp [pulsesFrom, pulses, ← Nat.add_assoc]

/-- A clock byte adds four high phases of one wire bit each. -/
theorem highRuns_clockByte_cons (bs : List Byte) : highRuns (clockByte :: bs) = [1, 1, 1, 1] ++ highRuns bs := by
  rw [highRuns, wireBits_cons, byteBits_clockByte]
  simp [highRunsFrom, highRuns]

/-- The line after a byte sequence is at the level of the last bit of its last byte, bit 0 (R101). -/
theorem lineAfter_concat (bs : List Byte) (b : Byte) : lineAfter (bs ++ [b]) = b.getLsbD 0 := by
  simp [lineAfter, wireBits, byteBits, List.range_succ]

theorem pulses_trailer (m : Mode) : pulses [trailer m] = trailerPulses m := by cases m <;> decide

theorem highRuns_trailer (m : Mode) : highRuns [trailer m] = List.replicate (trailerPulses m) 1 := by
  cases m <;> decide

theorem trailer_getLsbD_zero (m : Mode) : (trailer m).getLsbD 0 = false := by cases m <;> decide

/-- A read frame has the 24 pulses of the result bits and those of its trailer (R133). -/
theorem framePulses_eq (m : Mode) : framePulses m = 24 + trailerPulses m := by cases m <;> decide

/-- The six clock bytes of a read frame make four pulses each, before those of the trailer (R134). -/
theorem pulses_encFrame (m : Mode) : pulses (encFrame m) = 24 + pulses [trailer m] := by
  simp only [encFrame, pulses_clockByte_cons]
  omega

/-- Every high phase of a read frame is one wire bit long (R141). -/
theorem highRuns_encFrame (m : Mode) : highRuns (encFrame m) = List.replicate (framePulses m) 1 := by
  simp only [encFrame, highRuns_clockByte_cons, highRuns_trailer, framePulses_eq, List.replicate_add]
  rfl

theorem lineAfter_encFrame (m : Mode) : lineAfter (encFrame m) = false :=
  (lineAfter_concat (List.replicate 6 clockByte) (trailer m)).trans (trailer_getLsbD_zero m)

/-- One wire bit at 20 kHz or more lasts at most 50 µs, within T_PD (R12, R141). -/
theorem oneBit_withinThreshold {f : Nat} (hf : 20000 ≤ f) : exceedsThreshold 1 f = false := by
  rw [Bool.eq_false_iff, ne_eq, exceedsThreshold_iff]
  omega

/-- Settles O4: the six clock bytes make 24 pulses, and the trailer makes the rest. -/
theorem readFramePulses : Obligations.ReadFramePulses := by
  refine ⟨fun m => ⟨rfl, rfl, ?_, ?_⟩, by decide⟩
  · rw [pulses_encFrame, pulses_trailer, framePulses_eq]
  · rw [pulses_trailer, framePulses_eq, Nat.add_sub_cancel_left]

/-- Settles O5: a read frame's high phases are one wire bit each, and a poll writes zeros. -/
theorem framesStayBelowThreshold : Obligations.FramesStayBelowThreshold := by
  refine ⟨fun m => ⟨fun n hn => ?_, lineAfter_encFrame m⟩, by decide, by decide, fun f => oneBit_withinThreshold⟩
  rw [highRuns_encFrame] at hn
  exact List.eq_of_mem_replicate hn

/-! ### The reset burst -/

/-- A low line that goes high and stays high makes one pulse (R130). -/
theorem pulsesFrom_rise {n : Nat} (hn : 0 < n) : pulsesFrom false (List.replicate n true) = 1 := by
  obtain ⟨k, rfl⟩ := Nat.exists_eq_add_one.mpr hn
  rw [List.replicate_succ, pulsesFrom, pulsesFrom_high]
  rfl

/-- Settles O6: the 8N wire bits of the burst are all high. -/
theorem burstIsOneLongPulse : Obligations.BurstIsOneLongPulse := by
  intro n hn
  have someBits : 0 < 8 * n := by omega
  constructor
  · rw [pulses, wireBits_burst, pulsesFrom_rise someBits]
  · rw [highRuns, wireBits_burst, highRunsFrom_high 0 _ (by omega), Nat.zero_add]

end Sys2Proof.Machine
end

section
/-! PROOFS. The decoder (40_codec.md section 3): a reading is the sign extension of its 24 result bits, each the first bit of
a wire pair; the arithmetic of its shift; and SPREAD, which the decoder undoes. -/

namespace Sys2Proof.Machine

/-! ### The result bits -/

/-- Result bit 4k + p is the first bit of wire pair p of byte k (R135, R138). -/
theorem resultBit_pair (rx : Readback) (k : Nat) {p : Nat} (hp : p < 4) :
    resultBit rx (4 * k + p) = (rx.getD k 0).getLsbD (7 - 2 * p) := by
  have hbyte : (4 * k + p) / 4 = k := by omega
  have hpair : (4 * k + p) % 4 = p := by omega
  rw [resultBit, hbyte, hpair]

/-- The reading is the sign extension of the 24-bit value that the result bits spell, from its most significant bit down. -/
theorem dec_eq_signExtend {rx : Readback} {v : BitVec 24} (h : ∀ i < 24, resultBit rx i = v.getLsbD (23 - i)) :
    dec rx = v.signExtend 32 := by
  refine BitVec.eq_of_getLsbD_eq fun j hj => ?_
  rw [dec_getLsbD, BitVec.getLsbD_signExtend, BitVec.msb_eq_getLsbD_last]
  by_cases hlow : j < 24
  · rw [if_pos hlow, if_pos hlow, h (23 - j) (by omega), Nat.sub_sub_self (by omega)]
  · rw [if_neg hlow, if_neg hlow, h 0 (by omega)]

/-- Bit 23 − i of a reading is result bit i. -/
theorem dec_getLsbD_result (rx : Readback) {i : Nat} (hi : i < 24) : (dec rx).getLsbD (23 - i) = resultBit rx i := by
  have hin : 23 - i < 24 := by omega
  have hword : 23 - i < 32 := by omega
  rw [dec_getLsbD, if_pos hin, decide_eq_true hword, Bool.true_and, Nat.sub_sub_self (by omega)]

theorem low_dec_getLsbD_result (rx : Readback) {i : Nat} (hi : i < 24) :
    ((dec rx).setWidth 24).getLsbD (23 - i) = resultBit rx i := by
  have hin : 23 - i < 24 := by omega
  rw [BitVec.getLsbD_setWidth, decide_eq_true hin, Bool.true_and, dec_getLsbD_result rx hi]

/-- A reading is the sign extension of its low 24 bits (R135). -/
theorem dec_signExtend_low (rx : Readback) : dec rx = ((dec rx).setWidth 24).signExtend 32 :=
  dec_eq_signExtend fun _ hi => (low_dec_getLsbD_result rx hi).symm

/-- Readbacks with the same result bits decode alike. -/
theorem dec_congr {rx rx' : Readback} (h : ∀ i < 24, resultBit rx i = resultBit rx' i) : dec rx = dec rx' := by
  have sameValue : dec rx = ((dec rx').setWidth 24).signExtend 32 :=
    dec_eq_signExtend fun i hi => (h i hi).trans (low_dec_getLsbD_result rx' hi).symm
  rw [sameValue, ← dec_signExtend_low rx']

/-- The low byte of the placed word is zero-filled (R135). -/
theorem placeBits_lowByte (rx : Readback) : (placeBits rx 24).extractLsb' 0 8 = 0 := by
  refine BitVec.eq_of_getLsbD_eq fun j hj => ?_
  have hout : ¬(32 - 24 ≤ 0 + j ∧ 0 + j < 32) := by omega
  rw [BitVec.getLsbD_extractLsb', placeBits_getLsbD rx 24 _ le_rfl, decide_eq_false hout]
  simp

/-- Settles O8: the word is the one that the decoder shifts, and a reading's bits are the result bits. -/
theorem decodePlacesResultBits : Obligations.DecodePlacesResultBits := by
  intro rx
  refine ⟨⟨placeBits rx 24, fun i hi => ?_, placeBits_lowByte rx, rfl⟩, fun k hk p hp => ?_, dec_signExtend_low rx⟩
  · have hin : 32 - 24 ≤ 31 - i ∧ 31 - i < 32 := by omega
    rw [placeBits_getLsbD rx 24 _ le_rfl, decide_eq_true hin, Bool.true_and, Nat.sub_sub_self (by omega), resultBit]
  · rw [Nat.sub_sub, dec_getLsbD_result rx (by omega), resultBit_pair rx k hp]

/-- Settles O9: the result bits are the first bits of the wire pairs; the vectors are closed computations. -/
theorem decodeReadsFirstBitsOnly : Obligations.DecodeReadsFirstBitsOnly :=
  ⟨fun _ _ h => dec_congr fun i hi => h (i / 4) (by omega) (i % 4) (by omega), by decide, by decide, by decide⟩

/-! ### The shift by 8 -/

/-- An arithmetic right shift by 8 is the sign extension of the upper 24 bits, whatever the low byte (R136). -/
theorem sshiftRight_eight_eq_signExtend (w : Word) : w.sshiftRight 8 = (w.extractLsb' 8 24).signExtend 32 := by
  refine BitVec.eq_of_getLsbD_eq fun j hj => ?_
  have hin : ¬32 ≤ j := by omega
  rw [BitVec.getLsbD_sshiftRight, BitVec.getLsbD_signExtend]
  by_cases hlow : j < 24
  · have hlow8 : 8 + j < 32 := by omega
    simp [hin, hj, hlow, hlow8]
  · have hhigh : ¬8 + j < 32 := by omega
    simp [hin, hj, hlow, hhigh, BitVec.msb_eq_getLsbD_last]

/-- An arithmetic right shift by 8 divides by 256, rounding toward negative infinity (R136). -/
theorem toInt_sshiftRight_eight (w : Word) : (w.sshiftRight 8).toInt = w.toInt / 256 := by
  rw [BitVec.toInt_sshiftRight, Int.shiftRight_eq_div_pow]
  rfl

/-- Bits 31 to 24 of a reading are copies of its sign, bit 23 (R136). -/
theorem dec_getLsbD_sign (rx : Readback) {j : Nat} (hlow : 24 ≤ j) (hj : j < 32) :
    (dec rx).getLsbD j = (dec rx).getLsbD 23 := by
  rw [dec_getLsbD_result rx (i := 0) (by omega), dec_getLsbD, if_neg (by omega), decide_eq_true hj, Bool.true_and]

/-- Settles O10, from the two readings of a shift by 8 and the word that the decoder shifts. -/
theorem shiftIsFloorDivision : Obligations.ShiftIsFloorDivision :=
  ⟨fun w _ => ⟨toInt_sshiftRight_eight w, sshiftRight_eight_eq_signExtend w⟩,
    fun rx => ⟨placeBits_lowByte rx, rfl, fun _ => dec_getLsbD_sign rx⟩⟩

/-! ### SPREAD and the range of readings -/

/-- Decoding undoes SPREAD, whatever the seventh byte (R143). -/
theorem dec_spread (v : BitVec 24) (x : Byte) : dec (spread v x) = v.signExtend 32 :=
  dec_eq_signExtend (resultBit_spread v x)

/-- Settles O12: the six data bytes of SPREAD are `spreadByte`s, and their result bits spell the value. -/
theorem decodeInvertsSpread : Obligations.DecodeInvertsSpread := by
  intro v x
  refine ⟨fun k hk p hp => ?_, rfl, dec_spread v x⟩
  rw [spread_getD v x k hk]
  exact spreadByte_bits v k p hp

/-- Every 24-bit two's-complement integer is the reading of its SPREAD (R142). -/
theorem dec_spread_ofInt {z : Int} (hlow : -2 ^ 23 ≤ z) (hhigh : z ≤ 2 ^ 23 - 1) (x : Byte) :
    (dec (spread (BitVec.ofInt 24 z) x)).toInt = z := by
  rw [dec_spread, BitVec.toInt_signExtend_of_le (by omega)]
  exact BitVec.toInt_ofInt_eq_self (by omega) hlow (by omega)

/-- Settles O11: a reading has 24 bits, and SPREAD reaches each value. -/
theorem readingRangeIsExact : Obligations.ReadingRangeIsExact :=
  ⟨dec_toInt_bounds, fun _ hlow hhigh => ⟨_, dec_spread_ofInt hlow hhigh 0⟩⟩

end Sys2Proof.Machine
end

section
/-! PROOFS. A command written to an idle block, and the SETMODE words (41_mode.md R161, R162): what each accepted word with
OP = 0x1 does. -/

namespace Sys2Proof.Machine

/-- A CMD write to an idle block is accepted in that step (R261). -/
theorem step_writesCmd_idle {v : Word} {s t : State} (h : writesCmd v s t) (hidle : s.busy = false) :
    step s = .next (wordBody (commandByte v) (acceptWrites (commandByte v) t)) := by
  have hturn : t.busy = false := by
    obtain ⟨rest, -, rfl⟩ := h
    exact hidle
  rw [step_writesCmd h, writeCmd_eq, command_idle hturn]

/-- The word of a command runs that command. -/
@[simp] theorem wordBody_encode (i : Instr) : wordBody (encode i) = acceptedBody i := by rw [wordBody, decode_encode]

/-- The command byte of a zero-extended command word is the word (R113). -/
@[simp] theorem commandByte_setWidth (w : Byte) : commandByte (w.setWidth 32) = w := by
  rw [commandByte, ← BitVec.setWidth_eq_extractLsb' (by decide), BitVec.setWidth_setWidth_of_le w (by decide),
    BitVec.setWidth_eq]

/-- The host's write of a command's word to an idle block runs the command (R261). -/
theorem step_command_idle {s : State} {i : Instr} {rest : List Turn}
    (hs : s.schedule = .access (.write 0x00 4 ((encode i).setWidth 32)) :: rest) (hidle : s.busy = false) :
    step s = .next (acceptedBody i (acceptWrites (encode i) { s with schedule := rest })) := by
  rw [step_writesCmd_idle ⟨rest, hs, rfl⟩ hidle, commandByte_setWidth, wordBody_encode]

@[simp] theorem acceptedBody_setmode (m : Mode) : acceptedBody (setmode m) = selectMode m := by cases m <;> rfl

/-- A word with OP = 0x1 that is not one of the three SETMODE words completes ILLEGAL (R162). -/
theorem wordBody_of_setmode_op {w : Byte} (hop : w.toNat / 16 = 1) (hw : w ∉ [(0x10 : Byte), 0x11, 0x12]) :
    wordBody w = complete .illegal := by
  obtain ⟨m, hm, -⟩ | ⟨rfl | rfl, -⟩ | ⟨rfl, -⟩ | ⟨rfl | rfl, -⟩ | ⟨-, h⟩ := wordBody_cases w
  case inl =>
    have setmodeWord : encode (setmode m) ∈ [(0x10 : Byte), 0x11, 0x12] := by cases m <;> decide
    exact absurd (word_of_decoded hm ▸ setmodeWord) hw
  case inr.inr.inr.inr => exact h
  all_goals exact absurd hop (by decide)

/-- Settles O22: each listed command is the SETMODE of its mode; a busy block drops it; the other words are illegal. -/
theorem setmodeSelectsMode : Obligations.SetmodeSelectsMode := by
  refine ⟨fun s i w m hmem hidle => ?_, fun s i _ hbusy => ?_, fun v s t hwrite hidle hop hw => ?_⟩
  · obtain ⟨rfl, rfl⟩ : i = setmode m ∧ w = encode (setmode m) := by
      simp only [List.mem_cons, Prod.mk.injEq, List.not_mem_nil, or_false] at hmem
      obtain ⟨rfl, rfl, rfl⟩ | ⟨rfl, rfl, rfl⟩ | ⟨rfl, rfl, rfl⟩ := hmem <;> exact ⟨rfl, rfl⟩
    refine ⟨decode_encode _, ?_⟩
    rw [exec_idle _ hidle, acceptedBody_setmode]
    rfl
  · exact ⟨_, by rw [exec_busy i hbusy, dropCommand_eq]⟩
  · have illegal : wordBody (commandByte v) = complete .illegal := wordBody_of_setmode_op hop hw
    have hstep := step_writesCmd_idle hwrite hidle
    rw [illegal] at hstep
    obtain ⟨rest, -, rfl⟩ := hwrite
    exact ⟨_, hstep, rfl, rfl⟩

end Sys2Proof.Machine
end

section
/-! PROOFS. A read whose poll is ready (42_read.md R180, R183, R186): its steps one by one, and then READNB as a whole, with
the tag of R188; and how a new mode gets from MODE to adc_sel to that tag (41_mode.md R163). -/

namespace Sys2Proof.Machine

/-- A run that starts with a step to `t` ends as the rest of it does from `t`. -/
theorem runSteps_succ {s t : State} {k : Nat} {o : Host.Outcome State Fault Refusal} (hstep : step s = .next t)
    (hrest : runSteps k t = o) : runSteps (k + 1) s = o := by
  rw [runSteps, hstep]
  exact hrest

/-- A poll whose listed answer is not the sentinel leads to the transfer (R183). -/
theorem step_poll_ready {s t : State} {b : Byte} {ps : List (BusAnswer Byte)} (ht : sequencerTurn s t)
    (hp : t.phase = .polling) (ha : t.pollAnswers = .ok b :: ps) (hb : b ≠ 0xFF) :
    step s = .next
      { t with
        pollAnswers := ps, pollRx := b, phase := .transferring, log := .transfer [0x00] (.ok [b]) :: t.log } := by
  rw [step_sequencer ht, sequencerStep_polling hp, pollStep_eq (takePoll_cons ha), portAnswer_ok, afterPoll_ready hb]
  rfl

/-- A transfer whose listed answer is Ok completes the read, with the tag of the selection before it (R186, R188). -/
theorem step_transfer_ok {s t : State} {rx : Readback} {fs : List (BusAnswer Readback)} (ht : sequencerTurn s t)
    (hp : t.phase = .transferring) (ha : t.frameAnswers = .ok rx :: fs) :
    step s = .next
      { t with
        frameAnswers := fs, rx := rx, result := dec rx, valid := true, adcSel := t.mode, busy := false, done := true,
        code := .ok, phase := .idle,
        log := .reading (dec rx) t.adcSel :: .transfer (encFrame t.mode) (.ok rx.toList) :: t.log } := by
  rw [step_sequencer ht, sequencerStep_transferring hp, transferStep_eq (takeFrame_cons ha), portAnswer_ok]
  rfl

/-- A read that is ready at its poll takes two steps of the sequencer (R183, R186): the reading was converted under the
selection before it, and MODE is the selection after it. -/
theorem read_completes_of_ready {s : State} {rest : List Turn} {b : Byte} {rx : Readback} {ps : List (BusAnswer Byte)}
    {fs : List (BusAnswer Readback)} (hp : s.phase = .polling) (hs : s.schedule = .sequencer :: .sequencer :: rest)
    (hpoll : s.pollAnswers = .ok b :: ps) (hb : b ≠ 0xFF) (hframe : s.frameAnswers = .ok rx :: fs) :
    runSteps 2 s = .next
      { s with
        busy := false, done := true, valid := true, code := .ok, phase := .idle, pollRx := b, result := dec rx, rx := rx,
        adcSel := s.mode, schedule := rest, pollAnswers := ps, frameAnswers := fs,
        log :=
          .reading (dec rx) s.adcSel :: .transfer (encFrame s.mode) (.ok rx.toList) :: .transfer [0x00] (.ok [b]) ::
            s.log } := by
  refine runSteps_succ (step_poll_ready (.inr ⟨_, hs, rfl⟩) hp hpoll hb) ?_
  exact runSteps_succ (step_transfer_ok (.inr ⟨_, rfl, rfl⟩) rfl hframe) rfl

/-- A READNB that is ready at its poll, from an idle block to its completion (R180). -/
theorem readnb_completes_of_ready {s : State} {rest : List Turn} {b : Byte} {rx : Readback}
    {ps : List (BusAnswer Byte)} {fs : List (BusAnswer Readback)} (hidle : s.busy = false)
    (hs : s.schedule = .access (.write 0x00 4 0x20) :: .sequencer :: .sequencer :: rest)
    (hpoll : s.pollAnswers = .ok b :: ps) (hb : b ≠ 0xFF) (hframe : s.frameAnswers = .ok rx :: fs) :
    runSteps 3 s = .next
      { s with
        lastCmd := 0x20, busy := false, done := true, valid := true, overrun := false, code := .ok, phase := .idle,
        pollRx := b, result := dec rx, busErr := 0, rx := rx, adcSel := s.mode, schedule := rest, pollAnswers := ps,
        frameAnswers := fs,
        log :=
          .reading (dec rx) s.adcSel :: .transfer (encFrame s.mode) (.ok rx.toList) :: .transfer [0x00] (.ok [b]) ::
            s.log } :=
  runSteps_succ (step_command_idle (i := .readnb) hs hidle) (read_completes_of_ready rfl rfl hpoll hb hframe)

/-- Settles O43: SETMODE writes MODE, the first read moves it to adc_sel, and the second read is tagged with it. -/
theorem modeReachesTheSecondRead : Obligations.ModeReachesTheSecondRead := by
  intro s m b₁ b₂ rx₁ rx₂ ps fs hidle hb₁ hb₂ hs hpoll hframe
  have selected := step_command_idle hs hidle
  rw [acceptedBody_setmode] at selected
  have firstRead := runSteps_succ selected (readnb_completes_of_ready rfl rfl hpoll hb₁ hframe)
  exact ⟨_, _, firstRead, rfl, rfl, readnb_completes_of_ready rfl rfl rfl hb₂ rfl, rfl, rfl, rfl⟩

end Sys2Proof.Machine
end

section
/-! PROOFS. The steps of the read pipeline (42_read.md R183, R184, R186, R191), each by the environment's answer, and what of a
command in progress they keep; with the invariant, how a command other than READBLK ends (R180, 43_reset.md R220). -/

namespace Sys2Proof.Machine

theorem sequencerTurn_phase {s t : State} (h : sequencerTurn s t) : t.phase = s.phase := by
  obtain ⟨rest, rfl⟩ := sequencerTurn_frame h
  rfl

theorem sequencerTurn_lastCmd {s t : State} (h : sequencerTurn s t) : t.lastCmd = s.lastCmd := by
  obtain ⟨rest, rfl⟩ := sequencerTurn_frame h
  rfl

/-! ### One step, by its answer -/

/-- Taking a poll answer leaves LASTCMD alone. -/
theorem takePoll_lastCmd {s u : State} {a : BusAnswer Byte} (h : takePoll s = (a, u)) : u.lastCmd = s.lastCmd := by
  obtain ⟨rest, n, hu⟩ := takePoll_frame s
  rw [h] at hu
  subst hu
  rfl

/-- The poll step, by the answer it takes (R183). -/
theorem step_poll {s t u : State} {a : BusAnswer Byte} (ht : sequencerTurn s t) (hp : t.phase = .polling)
    (ha : takePoll t = (a, u)) :
    step s = .next (afterPoll a (emit (.transfer [0x00] (a.map fun b => [b])) u)) := by
  rw [step_sequencer ht, sequencerStep_polling hp, pollStep_eq ha]
  rfl

/-- The transfer step, by the answer it takes (R186). -/
theorem step_transfer {s t u : State} {a : BusAnswer Readback} (ht : sequencerTurn s t) (hp : t.phase = .transferring)
    (ha : takeFrame t = (a, u)) :
    step s = .next (afterFrame a (emit (.transfer (encFrame t.mode) (a.map Vector.toList)) u)) := by
  rw [step_sequencer ht, sequencerStep_transferring hp, transferStep_eq ha]

/-- The delay step (R184). -/
theorem step_delay {s t : State} (ht : sequencerTurn s t) (hp : t.phase = .delaying) :
    step s = .next { t with phase := .polling, log := .delay t.cfg.pollDelayMs :: t.log } := by
  rw [step_sequencer ht, sequencerStep_delaying hp]
  rfl

/-- A not-ready poll completes READNB with WOULD_BLOCK (R183). -/
theorem pollNotReady_readnb {s : State} (h : opOf s.lastCmd = 0x2) : pollNotReady s = complete .wouldBlock s := if_pos h

/-- A not-ready poll sends every other command to its delay (R183). -/
theorem pollNotReady_readblk {s : State} (h : opOf s.lastCmd ≠ 0x2) : pollNotReady s = { s with phase := .delaying } :=
  if_neg h

/-- Settles O29: the answer taken leaves LASTCMD alone, and the four answers are the cases of the rule. -/
theorem pollStepFollowsTheRule : Obligations.PollStepFollowsTheRule := by
  intro s t u hp ht
  have hstep {a : BusAnswer Byte} (ha : takePoll t = (a, u)) := step_poll ht ((sequencerTurn_phase ht).trans hp) ha
  have hcmd {a : BusAnswer Byte} (ha : takePoll t = (a, u)) : u.lastCmd = s.lastCmd :=
    (takePoll_lastCmd ha).trans (sequencerTurn_lastCmd ht)
  refine ⟨fun e ha => ?_, fun b ha hb => ?_, fun ha hop => ?_, fun ha hop => ?_⟩
  · exact hstep ha
  · exact (hstep ha).trans (congrArg _ (afterPoll_ready hb _))
  · rw [← hcmd ha] at hop
    exact (hstep ha).trans (congrArg _ (pollNotReady_readnb hop))
  · rw [← hcmd ha] at hop
    exact (hstep ha).trans (congrArg _ (pollNotReady_readblk hop))

/-- Settles O30. -/
theorem delayStepPollsAgain : Obligations.DelayStepPollsAgain := by
  intro s t hp ht
  have hstep := step_delay ht ((sequencerTurn_phase ht).trans hp)
  obtain ⟨rest, rfl⟩ := sequencerTurn_frame ht
  exact hstep

/-! ### What a step keeps, and what ends a command -/

/-- The transfer step ends the command, whatever it is answered (R186). -/
theorem transferStep_completes (s : State) :
    (transferStep s).busy = false ∧ (transferStep s).done = true ∧ (transferStep s).lastCmd = s.lastCmd := by
  obtain ⟨_, _, ⟨_, -, h⟩ | ⟨_, -, h⟩⟩ := transferStep_cases s <;> simp [h]

/-- The burst step ends the command, whatever it is answered (R222, R223). -/
theorem burstStep_completes (s : State) :
    (burstStep s).busy = false ∧ (burstStep s).done = true ∧ (burstStep s).lastCmd = s.lastCmd := by
  obtain ⟨_, _, ⟨_, -, h⟩ | ⟨-, h⟩⟩ := burstStep_cases s <;> simp [h]

theorem pollStep_lastCmd (s : State) : (pollStep s).lastCmd = s.lastCmd := by
  obtain ⟨_, _, ⟨_, -, h⟩ | ⟨_, -, -, h⟩ | ⟨-, -, h⟩ | ⟨-, -, h⟩⟩ := pollStep_cases s <;> simp [h]

/-- READNB's poll step ends the command or leads to the transfer (R180, R183). -/
theorem pollStep_readnb {s : State} (hcmd : s.lastCmd = 0x20) :
    ((pollStep s).busy = false ∧ (pollStep s).done = true) ∨
      ((pollStep s).phase = .transferring ∧ (pollStep s).schedule = s.schedule) := by
  obtain ⟨_, _, ⟨_, -, h⟩ | ⟨_, -, -, h⟩ | ⟨-, -, h⟩ | ⟨-, hop, -⟩⟩ := pollStep_cases s
  · exact .inl (by simp [h])
  · exact .inr (by simp [h])
  · exact .inl (by simp [h])
  · exact absurd (by rw [hcmd]; rfl) hop

/-- The sequencer writes LASTCMD in none of its steps. -/
theorem sequencerStep_lastCmd (s : State) : (sequencerStep s).lastCmd = s.lastCmd := by
  cases h : s.phase with
  | idle => rw [sequencerStep_idle h]
  | polling => rw [sequencerStep_polling h, pollStep_lastCmd]
  | delaying => rw [sequencerStep_delaying h]; rfl
  | transferring => rw [sequencerStep_transferring h, (transferStep_completes s).2.2]
  | bursting => rw [sequencerStep_bursting h, (burstStep_completes s).2.2]

/-- A dropped command changes neither MODE nor LASTCMD (R264). -/
theorem command_busy_keeps {s : State} (h : s.busy = true) (w : Byte) (body : State → State) :
    (command w body s).mode = s.mode ∧ (command w body s).lastCmd = s.lastCmd := by
  rw [command_busy h]
  exact ⟨rfl, rfl⟩

/-- A command that stays in progress over a step keeps MODE and LASTCMD: only a burst writes MODE, and it ends the command;
a CMD write is dropped. -/
theorem step_busy_keeps_command {s t : State} (hst : step s = .next t) (hs : s.busy = true) (ht : t.busy = true) :
    t.mode = s.mode ∧ t.lastCmd = s.lastCmd := by
  obtain ⟨u, hu, rfl⟩ | ⟨v, u, hu, rfl⟩ | ⟨rest, log, rfl⟩ | ⟨rest, -, rfl⟩ := step_next_cases hst
  · obtain ⟨rest, rfl⟩ := sequencerTurn_frame hu
    refine ⟨?_, sequencerStep_lastCmd _⟩
    obtain hmode | ⟨hp, -, -⟩ := sequencerStep_mode { s with schedule := rest }
    · exact hmode
    · rw [sequencerStep_bursting hp, (burstStep_completes _).1] at ht
      cases ht
  · obtain ⟨rest, -, rfl⟩ := hu
    exact command_busy_keeps (s := { s with schedule := rest }) hs _ _
  · exact ⟨rfl, rfl⟩
  · cases ht

/-- Settles O31: the answer taken leaves MODE and adc_sel alone, so the frame and the tag are those of the state before. -/
theorem transferStepFollowsTheRule : Obligations.TransferStepFollowsTheRule := by
  refine ⟨fun s t u hp ht => ?_, fun s t => step_busy_keeps_command⟩
  have hstep {a : BusAnswer Readback} (ha : takeFrame t = (a, u)) :=
    step_transfer ht ((sequencerTurn_phase ht).trans hp) ha
  obtain ⟨turns, rfl⟩ := sequencerTurn_frame ht
  obtain ⟨rest, n, hu⟩ := takeFrame_frame { s with schedule := turns }
  refine ⟨fun e ha => ⟨_, hstep ha⟩, fun rx ha => ?_⟩
  have hsame := hstep ha
  rw [ha] at hu
  subst hu
  exact hsame

/-- READNB's poll step gives WOULD_BLOCK for the sentinel alone: every other answer leaves CODE 0 or gives BUS_ERROR
(R183, R191). -/
theorem pollStep_wouldBlock_iff {s : State} (hcmd : s.lastCmd = 0x20) (hcode : s.code = .ok) :
    (pollStep s).code = .wouldBlock ↔ (takePoll s).1 = .ok 0xFF := by
  obtain ⟨_, _, ⟨e, ha, h⟩ | ⟨b, ha, hready, h⟩ | ⟨ha, -, h⟩ | ⟨-, hop, -⟩⟩ := pollStep_cases s
  · simp [ha, h]
  · simpa [ha, h, hcode] using hready
  · simp [ha, h]
  · exact absurd (by rw [hcmd]; rfl) hop

/-- Settles O33: a command in progress shows CODE 0. -/
theorem wouldBlockIffSentinel : Obligations.WouldBlockIffSentinel := by
  intro s t hinv hp hcmd ht
  refine ⟨pollStep t, ?_, ?_⟩
  · rw [step_sequencer ht, sequencerStep_polling ((sequencerTurn_phase ht).trans hp)]
  · obtain ⟨turns, rfl⟩ := sequencerTurn_frame ht
    obtain ⟨-, -, hcode, -, -⟩ := hinv.busy_shows_acceptance (hinv.busy_of_phase hp (by decide))
    exact pollStep_wouldBlock_iff (s := { s with schedule := turns }) hcmd hcode

/-- Settles O40: the invariant leaves READNB's poll, a transfer and a burst; the last two end the command at once, and a poll
ends it or is followed by a transfer. -/
theorem otherCommandsEndInTwoSteps : Obligations.OtherCommandsEndInTwoSteps := by
  intro s hinv hbusy hcmd hs
  have hstep := step_sequencer (.inl ⟨hs, rfl⟩ : sequencerTurn s s)
  cases hp : s.phase with
  | idle => exact absurd hp (hinv.busy_iff_phase.mp hbusy)
  | polling =>
    rw [sequencerStep_polling hp] at hstep
    obtain ⟨hend, hdone⟩ | ⟨hnext, hsched⟩ := pollStep_readnb ((hinv.polling_cmd hp).resolve_right hcmd)
    · exact ⟨1, by decide, _, runSteps_succ hstep rfl, hend, hdone, pollStep_lastCmd s⟩
    · have hsecond := step_sequencer (.inl ⟨hsched.trans hs, rfl⟩ : sequencerTurn (pollStep s) (pollStep s))
      rw [sequencerStep_transferring hnext] at hsecond
      obtain ⟨hend, hdone, hlast⟩ := transferStep_completes (pollStep s)
      exact ⟨2, le_rfl, _, runSteps_succ hstep (runSteps_succ hsecond rfl), hend, hdone, hlast.trans (pollStep_lastCmd s)⟩
  | delaying => exact absurd (hinv.delaying_cmd hp).1 hcmd
  | transferring =>
    rw [sequencerStep_transferring hp] at hstep
    exact ⟨1, by decide, _, runSteps_succ hstep rfl, transferStep_completes s⟩
  | bursting =>
    rw [sequencerStep_bursting hp] at hstep
    exact ⟨1, by decide, _, runSteps_succ hstep rfl, burstStep_completes s⟩

end Sys2Proof.Machine
end

section
/-! PROOFS. The read commands from an idle block to their completion (42_read.md section 1, R189, R190): the steps that the
listed answers give, READBLK's rounds of a not-ready poll and a delay, and the runs made of them. -/

namespace Sys2Proof.Machine

/-! ### Runs -/

/-- A run of `j + k` steps is a run of `j` and then one of `k`. -/
theorem runSteps_add {s t : State} {j k : Nat} (h : runSteps j s = .next t) : runSteps (j + k) s = runSteps k t := by
  induction j generalizing s with
  | zero =>
    cases h
    rw [Nat.zero_add]
  | succ j ih =>
    rw [Nat.succ_add, runSteps]
    rw [runSteps] at h
    cases hs : step s with
    | next u => rw [hs] at h; exact ih h
    | fault f => rw [hs] at h; cases h
    | refused r => rw [hs] at h; cases h

/-- An idle state is one with BUSY written to 0, so that its BUSY computes. -/
theorem exists_eq_idle {s : State} (h : s.busy = false) : ∃ s₀ : State, s = { s₀ with busy := false } :=
  ⟨s, by rw [← h]⟩

/-! ### The steps, by the listed answers -/

/-- A failed poll ends the command (R183). -/
theorem step_poll_err {s : State} {e : Word} {ps : List (BusAnswer Byte)} (hs : s.schedule = [])
    (hp : s.phase = .polling) (ha : s.pollAnswers = .err e :: ps) :
    step s = .next
      { s with
        pollAnswers := ps, busErr := clipErr s.cfg.busErrW e, busy := false, done := true, code := .busError,
        phase := .idle, log := .transfer [0x00] (.err (clipErr s.cfg.busErrW e)) :: s.log } :=
  step_poll (.inl ⟨hs, rfl⟩) hp (takePoll_cons ha)

/-- A poll that captures the sentinel ends READNB (R183). -/
theorem step_poll_wouldBlock {s : State} {ps : List (BusAnswer Byte)} (hs : s.schedule = []) (hp : s.phase = .polling)
    (hcmd : s.lastCmd = 0x20) (ha : s.pollAnswers = .ok 0xFF :: ps) :
    step s = .next
      { s with
        pollAnswers := ps, pollRx := 0xFF, busy := false, done := true, code := .wouldBlock, phase := .idle,
        log := .transfer [0x00] (.ok [0xFF]) :: s.log } := by
  have hop : opOf s.lastCmd = 0x2 := by rw [hcmd]; rfl
  exact (step_poll (.inl ⟨hs, rfl⟩) hp (takePoll_cons ha)).trans (congrArg _ (pollNotReady_readnb hop))

/-- A failed transfer ends the command and leaves adc_sel a draw (R186, R187). -/
theorem step_transfer_err {s : State} {e : Word} {fs : List (BusAnswer Readback)} (hs : s.schedule = [])
    (hp : s.phase = .transferring) (ha : s.frameAnswers = .err e :: fs) :
    step s = .next
      { s with
        frameAnswers := fs, adcSel := Config.freeAdcSel s.draws, draws := s.draws + 1,
        busErr := clipErr s.cfg.busErrW e, busy := false, done := true, code := .busError, phase := .idle,
        log := .transfer (encFrame s.mode) (.err (clipErr s.cfg.busErrW e)) :: s.log } :=
  step_transfer (.inl ⟨hs, rfl⟩) hp (takeFrame_cons ha)

/-- A poll that captures the sentinel sends READBLK to its delay (R183). -/
theorem step_poll_delays {s : State} {ps : List (BusAnswer Byte)} (hs : s.schedule = []) (hp : s.phase = .polling)
    (hcmd : s.lastCmd = 0x30) (ha : s.pollAnswers = .ok 0xFF :: ps) :
    step s = .next
      { s with
        pollAnswers := ps, pollRx := 0xFF, phase := .delaying, log := .transfer [0x00] (.ok [0xFF]) :: s.log } := by
  have hop : opOf s.lastCmd ≠ 0x2 := by rw [hcmd]; decide
  exact (step_poll (.inl ⟨hs, rfl⟩) hp (takePoll_cons ha)).trans (congrArg _ (pollNotReady_readblk hop))

/-- A polling read that is ready completes in two steps (R183, R186). -/
theorem ready_read_completes {s : State} {b : Byte} {rx : Readback} {ps : List (BusAnswer Byte)}
    {fs : List (BusAnswer Readback)} (hs : s.schedule = []) (hp : s.phase = .polling) (hpoll : s.pollAnswers = .ok b :: ps)
    (hb : b ≠ 0xFF) (hframe : s.frameAnswers = .ok rx :: fs) :
    runSteps 2 s = .next
      { s with
        busy := false, done := true, valid := true, code := .ok, phase := .idle, pollRx := b, result := dec rx, rx := rx,
        adcSel := s.mode, pollAnswers := ps, frameAnswers := fs,
        log :=
          .reading (dec rx) s.adcSel :: .transfer (encFrame s.mode) (.ok rx.toList) :: .transfer [0x00] (.ok [b]) ::
            s.log } :=
  runSteps_succ (step_poll_ready (.inl ⟨hs, rfl⟩) hp hpoll hb)
    (runSteps_succ (step_transfer_ok (.inl ⟨hs, rfl⟩) rfl hframe) rfl)

/-- A polling read that is ready and whose transfer fails ends in two steps with the bus error (R183, R186). -/
theorem ready_read_fails {s : State} {b : Byte} {e : Word} {ps : List (BusAnswer Byte)} {fs : List (BusAnswer Readback)}
    (hs : s.schedule = []) (hp : s.phase = .polling) (hpoll : s.pollAnswers = .ok b :: ps) (hb : b ≠ 0xFF)
    (hframe : s.frameAnswers = .err e :: fs) :
    runSteps 2 s = .next
      { s with
        busy := false, done := true, code := .busError, phase := .idle, busErr := clipErr s.cfg.busErrW e, pollRx := b,
        adcSel := Config.freeAdcSel s.draws, draws := s.draws + 1, pollAnswers := ps, frameAnswers := fs,
        log :=
          .transfer (encFrame s.mode) (.err (clipErr s.cfg.busErrW e)) :: .transfer [0x00] (.ok [b]) :: s.log } :=
  runSteps_succ (step_poll_ready (.inl ⟨hs, rfl⟩) hp hpoll hb) (runSteps_succ (step_transfer_err hs rfl hframe) rfl)

/-! ### READNB -/

/-- Settles O36: acceptance, the poll, and the transfer if the poll was ready. -/
theorem readnbRunsToCompletion : Obligations.ReadnbRunsToCompletion := by
  intro s ps fs hidle hs
  obtain ⟨s, rfl⟩ := exists_eq_idle hidle
  have accepted := step_command_idle (i := .readnb) hs hidle
  refine ⟨fun hpoll => ?_, fun e hpoll => ?_, fun b rx hpoll hb hframe => ?_,
    fun b e hpoll hb hframe => ⟨Config.freeAdcSel s.draws, ?_⟩⟩
  · exact runSteps_succ accepted (runSteps_succ (step_poll_wouldBlock rfl rfl rfl hpoll) rfl)
  · exact runSteps_succ accepted (runSteps_succ (step_poll_err rfl rfl hpoll) rfl)
  · exact runSteps_succ accepted (ready_read_completes rfl rfl hpoll hb hframe)
  · exact runSteps_succ accepted (ready_read_fails rfl rfl hpoll hb hframe)

/-! ### READBLK -/

/-- The record of `n` not-ready rounds, newest first: each a poll and then a delay. -/
def roundsRecord (c : Config) (n : Nat) : List Event :=
  (List.replicate n [Event.delay c.pollDelayMs, .transfer [0x00] (.ok [0xFF])]).flatten

theorem roundsRecord_succ (c : Config) (n : Nat) :
    roundsRecord c (n + 1) = roundsRecord c n ++ [.delay c.pollDelayMs, .transfer [0x00] (.ok [0xFF])] := by
  simp [roundsRecord, List.replicate_succ']

/-- A not-ready round of READBLK: the poll and the delay (R183, R184). -/
theorem readblk_round {s : State} {ps : List (BusAnswer Byte)} (hs : s.schedule = []) (hp : s.phase = .polling)
    (hcmd : s.lastCmd = 0x30) (ha : s.pollAnswers = .ok 0xFF :: ps) :
    runSteps 2 s = .next
      { s with
        phase := .polling, pollRx := 0xFF, pollAnswers := ps,
        log := .delay s.cfg.pollDelayMs :: .transfer [0x00] (.ok [0xFF]) :: s.log } :=
  runSteps_succ (step_poll_delays hs hp hcmd ha) (runSteps_succ (step_delay (.inl ⟨hs, rfl⟩) rfl) rfl)

/-- A polling READBLK polls again after `n` not-ready rounds, with nothing but POLLRX, the answers used up and the record
changed. -/
theorem readblk_rounds (n : Nat) {s : State} {ps : List (BusAnswer Byte)} (hs : s.schedule = [])
    (hp : s.phase = .polling) (hcmd : s.lastCmd = 0x30)
    (hpoll : s.pollAnswers = List.replicate n (.ok 0xFF) ++ ps) :
    ∃ b, runSteps (2 * n) s = .next
      { s with phase := .polling, pollRx := b, pollAnswers := ps, log := roundsRecord s.cfg n ++ s.log } := by
  induction n generalizing s with
  | zero => exact ⟨s.pollRx, by rw [← hp, ← show s.pollAnswers = ps from hpoll]; rfl⟩
  | succ n ih =>
    have round := readblk_round hs hp hcmd hpoll
    rw [show 2 * (n + 1) = 2 + 2 * n by omega, runSteps_add round, roundsRecord_succ, List.append_assoc]
    exact ih hs rfl hcmd rfl

/-- READBLK accepted by an idle block polls again after `n` not-ready rounds. -/
theorem readblk_polls_after_rounds (n : Nat) {s : State} {ps : List (BusAnswer Byte)} (hidle : s.busy = false)
    (hs : s.schedule = [.access (.write 0x00 4 0x30)])
    (hpoll : s.pollAnswers = List.replicate n (.ok 0xFF) ++ ps) :
    ∃ b, runSteps (2 * n + 1) s = .next
      { s with
        lastCmd := 0x30, busy := true, done := false, valid := false, overrun := false, code := .ok, phase := .polling,
        pollRx := b, result := 0, busErr := 0, schedule := [], pollAnswers := ps,
        log := roundsRecord s.cfg n ++ s.log } := by
  rw [runSteps_succ (step_command_idle (i := .readblk) hs hidle) rfl]
  exact readblk_rounds n rfl rfl rfl hpoll

/-- Settles O37: the rounds, a ready poll, the transfer. -/
theorem readblkCompletesWhenReady : Obligations.ReadblkCompletesWhenReady := by
  intro n s b rx ps fs hidle hs hpoll hb hframe
  obtain ⟨s, rfl⟩ := exists_eq_idle hidle
  obtain ⟨b₀, hrounds⟩ := readblk_polls_after_rounds n hidle hs hpoll
  rw [show 1 + (2 + 2 * n) = 2 * n + 1 + 2 by omega, runSteps_add hrounds]
  exact ready_read_completes rfl rfl rfl hb hframe

/-- A READBLK with `n` not-ready polls to come is in progress over all their steps: at the start it polls, one step later it
delays, and after two steps the other rounds remain. -/
theorem readblk_stays_busy (n : Nat) {s : State} {ps : List (BusAnswer Byte)} {k : Nat} (hbusy : s.busy = true)
    (hs : s.schedule = []) (hp : s.phase = .polling) (hcmd : s.lastCmd = 0x30)
    (hpoll : s.pollAnswers = List.replicate n (.ok 0xFF) ++ ps) (hk : k ≤ 2 * n) :
    ∃ t, runSteps k s = .next t ∧ t.busy = true ∧ t.done = s.done ∧ (t.phase = .polling ∨ t.phase = .delaying) := by
  induction n generalizing s k with
  | zero =>
    obtain rfl : k = 0 := by omega
    exact ⟨s, rfl, hbusy, rfl, .inl hp⟩
  | succ n ih =>
    match k with
    | 0 => exact ⟨s, rfl, hbusy, rfl, .inl hp⟩
    | 1 => exact ⟨_, runSteps_succ (step_poll_delays hs hp hcmd hpoll) rfl, hbusy, rfl, .inr rfl⟩
    | k + 2 =>
      rw [Nat.add_comm, runSteps_add (readblk_round hs hp hcmd hpoll)]
      exact ih hbusy hs rfl hcmd rfl (by omega)

/-- Settles O38. -/
theorem readblkHasNoTimeout : Obligations.ReadblkHasNoTimeout :=
  fun n _ _ hbusy hp hcmd hs hpoll _ hk => readblk_stays_busy n hbusy hs hp hcmd hpoll hk

/-- Settles O39: the rounds, and then a failed poll, or a ready one and a failed transfer. -/
theorem readblkEndsOnBusError : Obligations.ReadblkEndsOnBusError := by
  refine ⟨fun n s e ps hidle hs hpoll => ?_, fun n s b e ps fs hidle hs hpoll hb hframe => ?_⟩
  · obtain ⟨b₀, hrounds⟩ := readblk_polls_after_rounds n hidle hs hpoll
    rw [show 2 + 2 * n = 2 * n + 1 + 1 by omega, runSteps_add hrounds]
    exact ⟨_, runSteps_succ (step_poll_err rfl rfl rfl) rfl,
      ⟨rfl, rfl, rfl, BitVec.toNat_ofNat _ _, rfl, rfl, rfl, rfl⟩, rfl, rfl⟩
  · obtain ⟨b₀, hrounds⟩ := readblk_polls_after_rounds n hidle hs hpoll
    rw [show 3 + 2 * n = 2 * n + 1 + 2 by omega, runSteps_add hrounds]
    exact ⟨_, ready_read_fails rfl rfl rfl hb hframe,
      ⟨rfl, rfl, rfl, BitVec.toNat_ofNat _ _, rfl, rfl, rfl, rfl⟩, rfl, rfl, rfl⟩

end Sys2Proof.Machine
end

section
/-! PROOFS. What no register depends on: adc_sel (42_read.md R188), the record, and every parameter but BUS_ERR_W (R184,
20_memory.md R70, 70_reset_and_hazards.md R320; RESET_BYTES shows only in what the host reads and in the burst, so in the
record). One simulation gives both statements: a state in which these parts are other ones takes each turn as the state itself
does. -/

namespace Sys2Proof.Machine

/-- The state with another adc_sel, configuration and record. -/
def State.withUnseen (s : State) (m : Mode) (c : Config) (log : List Event) : State :=
  { s with adcSel := m, cfg := c, log := log }

section
variable (s : State) (m : Mode) (c : Config) (log : List Event)

/-! ### A CMD write -/

theorem wordBody_withUnseen (w : Byte) :
    wordBody w (acceptWrites w (s.withUnseen m c log)) = (wordBody w (acceptWrites w s)).withUnseen m c log := by
  obtain ⟨_, -, h⟩ | ⟨-, h⟩ | ⟨-, h⟩ | ⟨-, h⟩ | ⟨-, h⟩ := wordBody_cases w <;> rw [h] <;> rfl

theorem command_withUnseen (w : Byte) :
    command w (wordBody w) (s.withUnseen m c log) = (command w (wordBody w) s).withUnseen m c log := by
  cases h : s.busy with
  | true => rw [command_busy h, command_busy (s := s.withUnseen m c log) h]; rfl
  | false => rw [command_idle h, command_idle (s := s.withUnseen m c log) h, wordBody_withUnseen]

/-! ### The environment's answers, which depend on BUS_ERR_W -/

section
variable {s c} (hw : c.busErrW = s.cfg.busErrW)
include hw

theorem takePoll_withUnseen :
    takePoll (s.withUnseen m c log) = ((takePoll s).1, (takePoll s).2.withUnseen m c log) := by
  cases h : s.pollAnswers with
  | nil => rw [takePoll_nil h, takePoll_nil (s := s.withUnseen m c log) h]; simp only [State.withUnseen, hw]
  | cons a rest => rw [takePoll_cons h, takePoll_cons (s := s.withUnseen m c log) h]; simp only [State.withUnseen, hw]

theorem takeFrame_withUnseen :
    takeFrame (s.withUnseen m c log) = ((takeFrame s).1, (takeFrame s).2.withUnseen m c log) := by
  cases h : s.frameAnswers with
  | nil => rw [takeFrame_nil h, takeFrame_nil (s := s.withUnseen m c log) h]; simp only [State.withUnseen, hw]
  | cons a rest => rw [takeFrame_cons h, takeFrame_cons (s := s.withUnseen m c log) h]; simp only [State.withUnseen, hw]

theorem takeBurst_withUnseen :
    takeBurst (s.withUnseen m c log) = ((takeBurst s).1, (takeBurst s).2.withUnseen m c log) := by
  cases h : s.burstAnswers with
  | nil => rw [takeBurst_nil h, takeBurst_nil (s := s.withUnseen m c log) h]; simp only [State.withUnseen, hw]
  | cons a rest => rw [takeBurst_cons h, takeBurst_cons (s := s.withUnseen m c log) h]; simp only [State.withUnseen, hw]

end

/-! ### The sequencer's steps -/

theorem pollNotReady_withUnseen : pollNotReady (s.withUnseen m c log) = (pollNotReady s).withUnseen m c log := by
  by_cases hop : opOf s.lastCmd = 0x2
  · rw [pollNotReady_readnb hop, pollNotReady_readnb (s := s.withUnseen m c log) hop]; rfl
  · rw [pollNotReady_readblk hop, pollNotReady_readblk (s := s.withUnseen m c log) hop]; rfl

theorem afterPoll_withUnseen (a : BusAnswer Byte) :
    afterPoll a (s.withUnseen m c log) = (afterPoll a s).withUnseen m c log := by
  cases a with
  | err e => rfl
  | ok b =>
    by_cases hb : b = 0xFF
    · subst hb
      rw [afterPoll_notReady, afterPoll_notReady]
      exact pollNotReady_withUnseen { s with pollRx := 0xFF } m c log
    · rw [afterPoll_ready hb, afterPoll_ready hb]; rfl

/-- A transfer's answer writes adc_sel without reading it, but for the tag in the record (R186, R187, R188). -/
theorem afterFrame_withUnseen (a : BusAnswer Readback) :
    ∃ log', afterFrame a (s.withUnseen m c log) = (afterFrame a s).withUnseen (afterFrame a s).adcSel c log' := by
  cases a <;> exact ⟨_, rfl⟩

/-- A burst's answer writes adc_sel without reading it (43_reset.md R222, R223). -/
theorem afterBurst_withUnseen (a : BusAnswer Unit) :
    afterBurst a (s.withUnseen m c log) = (afterBurst a s).withUnseen (afterBurst a s).adcSel c log := by
  cases a <;> rfl

variable {s c} (hw : c.busErrW = s.cfg.busErrW)
include hw

theorem pollStep_withUnseen : ∃ log', pollStep (s.withUnseen m c log) = (pollStep s).withUnseen m c log' := by
  rw [pollStep_eq (takePoll_withUnseen m log hw)]
  exact ⟨_, afterPoll_withUnseen (emit _ (takePoll s).2) m c _ _⟩

theorem transferStep_withUnseen :
    ∃ log', transferStep (s.withUnseen m c log) = (transferStep s).withUnseen (transferStep s).adcSel c log' := by
  rw [transferStep_eq (takeFrame_withUnseen m log hw)]
  exact afterFrame_withUnseen (emit _ (takeFrame s).2) m c _ _

theorem burstStep_withUnseen :
    ∃ log', burstStep (s.withUnseen m c log) = (burstStep s).withUnseen (burstStep s).adcSel c log' := by
  rw [burstStep_eq (takeBurst_withUnseen m log hw)]
  exact ⟨_, afterBurst_withUnseen (emit _ (takeBurst s).2) m c _ _⟩

end

/-! ### One step -/

/-- A reading of WAIT differs in the record alone. -/
theorem waitTurn_withUnseen (s : State) (m : Mode) (c : Config) (log : List Event) :
    ∃ log', waitTurn (s.withUnseen m c log) = (waitTurn s).withUnseen m c log' := by
  cases h : s.busy with
  | true =>
    rw [waitTurn, waitTurn, if_pos h, if_pos (show (s.withUnseen m c log).busy = true from h)]
    exact ⟨_, rfl⟩
  | false =>
    rw [waitTurn_idle h, waitTurn_idle (s := s.withUnseen m c log) h]
    exact ⟨_, rfl⟩

/-- The next state of `s`, if it has one, is also the next state of `s` with other unseen parts, but for these; and where
adc_sel was not another one, neither is it after the step. -/
def StepsAlike (s : State) (m : Mode) (c : Config) (log : List Event) : Prop :=
  ∀ t, step s = .next t →
    ∃ m' log', step (s.withUnseen m c log) = .next (t.withUnseen m' c log') ∧ (m = s.adcSel → m' = t.adcSel)

section
variable {s : State} {m : Mode} {c : Config} {log : List Event}

/-- A step that keeps adc_sel, whatever it is. -/
theorem stepsAlike_of_kept {u : State} {log' : List Event} (hstep : step s = .next u)
    (hother : step (s.withUnseen m c log) = .next (u.withUnseen m c log')) (hsel : u.adcSel = s.adcSel) :
    StepsAlike s m c log := by
  intro t ht
  cases hstep.symm.trans ht
  exact ⟨m, log', hother, fun hm => hm.trans hsel.symm⟩

/-- A step that writes adc_sel, with the same value whatever it was. -/
theorem stepsAlike_of_written {u : State} {log' : List Event} (hstep : step s = .next u)
    (hother : step (s.withUnseen m c log) = .next (u.withUnseen u.adcSel c log')) : StepsAlike s m c log := by
  intro t ht
  cases hstep.symm.trans ht
  exact ⟨_, log', hother, fun _ => rfl⟩

theorem sequencerTurn_withUnseen {u : State} (h : sequencerTurn s u) :
    sequencerTurn (s.withUnseen m c log) (u.withUnseen m c log) := by
  obtain ⟨hs, rfl⟩ | ⟨rest, hs, rfl⟩ := h
  · exact .inl ⟨hs, rfl⟩
  · exact .inr ⟨rest, hs, rfl⟩

/-- The sequencer's step: a transfer and a burst write adc_sel, the other phases keep it (10_state.md R45). -/
theorem stepsAlike_sequencer {u : State} (hu : sequencerTurn s u) (hw : c.busErrW = s.cfg.busErrW) :
    StepsAlike s m c log := by
  have hstep := step_sequencer hu
  have hother := step_sequencer (sequencerTurn_withUnseen (m := m) (c := c) (log := log) hu)
  have hwidth : c.busErrW = u.cfg.busErrW := by rw [sequencerTurn_cfg hu, hw]
  have hsel : u.adcSel = s.adcSel := by
    obtain ⟨rest, rfl⟩ := sequencerTurn_frame hu
    rfl
  have hphase {p : Phase} (h : u.phase = p) : (u.withUnseen m c log).phase = p := h
  cases h : u.phase with
  | idle =>
    rw [sequencerStep_idle h] at hstep
    rw [sequencerStep_idle (hphase h)] at hother
    exact stepsAlike_of_kept hstep hother hsel
  | polling =>
    obtain ⟨log', hpoll⟩ := pollStep_withUnseen m log hwidth
    rw [sequencerStep_polling h] at hstep
    rw [sequencerStep_polling (hphase h), hpoll] at hother
    exact stepsAlike_of_kept hstep hother ((pollStep_writes u).2.1.trans hsel)
  | delaying =>
    rw [sequencerStep_delaying h] at hstep
    rw [sequencerStep_delaying (hphase h)] at hother
    exact stepsAlike_of_kept hstep hother hsel
  | transferring =>
    obtain ⟨log', htransfer⟩ := transferStep_withUnseen m log hwidth
    rw [sequencerStep_transferring h] at hstep
    rw [sequencerStep_transferring (hphase h), htransfer] at hother
    exact stepsAlike_of_written hstep hother
  | bursting =>
    obtain ⟨log', hburst⟩ := burstStep_withUnseen m log hwidth
    rw [sequencerStep_bursting h] at hstep
    rw [sequencerStep_bursting (hphase h), hburst] at hother
    exact stepsAlike_of_written hstep hother

/-- A host access with a next state is one the block gives a meaning to (R74, log entry 9). -/
theorem wf_of_step_access {t : State} {a : HostAccess} {rest : List Turn} (hs : s.schedule = .access a :: rest)
    (ht : step s = .next t) : a.wf = true := by
  rw [step_turn hs, takeTurn] at ht
  by_cases hal : a.size = 4 ∧ a.off % 4 = 0
  · by_cases hin : a.off < 0x20
    · simp [HostAccess.wf, HostAccess.aligned, HostAccess.inWindow, hal, hin]
    · rw [hostAccess_outside hal.1 hal.2 (Nat.le_of_not_lt hin)] at ht
      cases ht
  · rw [hostAccess_misaligned hal] at ht
    cases ht

/-- A CMD write is dropped, or decoded and run, whatever the unseen parts are. -/
theorem stepsAlike_writesCmd {v : Word} {rest : List Turn} (hs : s.schedule = .access (.write 0x00 4 v) :: rest) :
    StepsAlike s m c log := by
  have hstep := (step_writesCmd ⟨rest, hs, rfl⟩).trans (writeCmd_eq v { s with schedule := rest })
  have hother := (step_writesCmd (s := s.withUnseen m c log) ⟨rest, hs, rfl⟩).trans
    (writeCmd_eq v (State.withUnseen { s with schedule := rest } m c log))
  rw [command_withUnseen] at hother
  exact stepsAlike_of_kept hstep hother (command_frame _ _).1

theorem stepsAlike_access {a : HostAccess} {rest : List Turn} (hs : s.schedule = .access a :: rest) :
    StepsAlike s m c log := by
  intro t ht
  obtain ⟨r, hoff, hsize⟩ := exists_reg_of_wf (wf_of_step_access hs ht)
  revert t
  cases a with
  | read off size =>
    obtain rfl : off = regOffset r := hoff
    obtain rfl : size = 4 := hsize
    exact stepsAlike_of_kept (step_read hs) (step_read (s := s.withUnseen m c log) hs) rfl
  | write off size v =>
    obtain rfl : off = regOffset r := hoff
    obtain rfl : size = 4 := hsize
    by_cases hr : r = .cmd
    · subst hr
      exact stepsAlike_writesCmd hs
    · exact stepsAlike_of_kept (step_write hr hs) (step_write (s := s.withUnseen m c log) hr hs) rfl

/-- The simulation: every turn is taken alike by a state and the state with other unseen parts of the same BUS_ERR_W. -/
theorem stepsAlike (hw : c.busErrW = s.cfg.busErrW) : StepsAlike s m c log := by
  cases hs : s.schedule with
  | nil => exact stepsAlike_sequencer (.inl ⟨hs, rfl⟩) hw
  | cons turn rest =>
    have hother := step_turn (s := s.withUnseen m c log) hs
    cases turn with
    | access a => exact stepsAlike_access hs
    | wait =>
      obtain ⟨log', hwait⟩ := waitTurn_withUnseen { s with schedule := rest } m c log
      obtain ⟨_, _, hframe⟩ := waitTurn_frame { s with schedule := rest }
      exact stepsAlike_of_kept (step_turn hs) (hother.trans (congrArg _ hwait)) (by rw [hframe])
    | sequencer => exact stepsAlike_sequencer (.inr ⟨rest, hs, rfl⟩) hw
    | blockReset => exact stepsAlike_of_kept (step_turn hs) hother rfl

end

/-! ### The statements -/

/-- Settles O53: the configuration is the same one in both states, and no step changes it. -/
theorem adcSelDoesNotInterfere : Obligations.AdcSelDoesNotInterfere := by
  intro s t m ht
  obtain ⟨m', log', hother, -⟩ := stepsAlike (m := m) (c := s.cfg) (log := s.log) rfl t ht
  refine ⟨_, hother, ?_⟩
  rw [← configurationIsFixed s t ht]
  rfl

/-- Settles O54: adc_sel is the same one in both states, and so it is after the step; of the configuration, which no step
changes, the observer sees RESET_BYTES and BUS_ERR_W. -/
theorem parametersDoNotInterfere : Obligations.ParametersDoNotInterfere := by
  intro s t c hreset herr ht
  obtain ⟨m', log', hother, hsel⟩ := stepsAlike (m := s.adcSel) (log := s.log) herr t ht
  refine ⟨_, hother, ?_⟩
  rw [← configurationIsFixed s t ht] at hreset herr
  simp only [State.hideParams, State.withUnseen, hsel rfl, hreset, herr]

end Sys2Proof.Machine
end

section
/-! PROOFS. The length of the reset burst (43_reset.md section 1, R221): N_min is the least one, and a configuration within its
constraints has a burst at least that long which the transport accepts. -/

namespace Sys2Proof.Machine

/-- A burst of `n` bytes exceeds the threshold exactly when `n` is at least N_min (R221). -/
theorem exceedsThreshold_busBits_iff (f n : Nat) : exceedsThreshold (busBits n) f = true ↔ nMin f ≤ n := by
  rw [exceedsThreshold_iff, busBits, nMin]
  omega

/-- N_min meets the source's bound: it is no less than 60 × F_SCK / 8 000 000 rounded up (R221). -/
theorem ceilBound_le_nMin (f : Nat) : 60 * f ≤ 8000000 * nMin f :=
  (Nat.lt_mul_div_succ (60 * f) (by decide)).le

@[simp] theorem length_burstFrame (c : Config) : (burstFrame c).length = c.resetBytes.toNat := List.length_replicate

/-- What the constraints on a configuration say of its burst: N_min ≤ RESET_BYTES ≤ MAX_TRANSFER (R12, R221). -/
theorem resetBytes_bounds_of_wf {c : Config} (h : c.wf = true) :
    nMin c.fSck ≤ c.resetBytes.toNat ∧ c.resetBytes.toNat ≤ c.maxTransfer := by
  simp only [Config.wf, Config.burstOk, Config.transferOk, Bool.and_eq_true, decide_eq_true_eq] at h
  obtain ⟨⟨⟨⟨_, hburst⟩, _⟩, _⟩, htransfer⟩ := h
  exact ⟨hburst, (le_max_right _ _).trans htransfer⟩

/-- Settles O7: a burst exceeds the threshold from N_min bytes on, and that is where the constraints put RESET_BYTES. -/
theorem burstLengthIsLeast : Obligations.BurstLengthIsLeast := by
  refine ⟨exceedsThreshold_busBits_iff, ceilBound_le_nMin, fun c hc => ?_⟩
  rw [exceedsThreshold_busBits_iff, length_burstFrame]
  exact resetBytes_bounds_of_wf hc

end Sys2Proof.Machine
end

section
/-! PROOFS. The RESET command (43_reset.md section 2): its burst step, by the environment's answer (R222, R223), the command
from an idle block to its completion (R220), and any number of RESETs after each other (R225). -/

namespace Sys2Proof.Machine

/-! ### The burst step -/

/-- The burst step, by the answer it takes (R222). -/
theorem step_burst {s t u : State} {a : BusAnswer Unit} (ht : sequencerTurn s t) (hp : t.phase = .bursting)
    (ha : takeBurst t = (a, u)) :
    step s = .next (afterBurst a (emit (.busWrite (burstFrame t.cfg) a) u)) := by
  rw [step_sequencer ht, sequencerStep_bursting hp, burstStep_eq ha]

/-- Settles O32: the burst is as long as the configuration says, which the sequencer's turn leaves alone. -/
theorem burstStepFollowsTheRule : Obligations.BurstStepFollowsTheRule := by
  intro s t u hp ht
  have hstep {a : BusAnswer Unit} (ha : takeBurst t = (a, u)) := step_burst ht ((sequencerTurn_phase ht).trans hp) ha
  rw [sequencerTurn_cfg ht] at hstep
  exact ⟨fun e ha => ⟨_, hstep ha⟩, hstep⟩

/-- A burst that is written ends the command and sets MODE and adc_sel to A128 (R222, R223). -/
theorem step_burst_ok {s t : State} {bs : List (BusAnswer Unit)} (ht : sequencerTurn s t) (hp : t.phase = .bursting)
    (ha : t.burstAnswers = .ok () :: bs) :
    step s = .next
      { t with
        burstAnswers := bs, mode := .a128, adcSel := .a128, busy := false, done := true, code := .ok, phase := .idle,
        log := .busWrite (burstFrame t.cfg) (.ok ()) :: t.log } :=
  step_burst ht hp (takeBurst_cons ha)

/-- A failed burst ends the command, keeps MODE and leaves adc_sel a draw (R222, R223). -/
theorem step_burst_err {s t : State} {e : Word} {bs : List (BusAnswer Unit)} (ht : sequencerTurn s t)
    (hp : t.phase = .bursting) (ha : t.burstAnswers = .err e :: bs) :
    step s = .next
      { t with
        burstAnswers := bs, adcSel := Config.freeAdcSel t.draws, draws := t.draws + 1,
        busErr := clipErr t.cfg.busErrW e, busy := false, done := true, code := .busError, phase := .idle,
        log := .busWrite (burstFrame t.cfg) (.err (clipErr t.cfg.busErrW e)) :: t.log } :=
  step_burst ht hp (takeBurst_cons ha)

/-! ### RESET as a whole -/

/-- Settles O41: acceptance, and then the burst, written or failed. -/
theorem resetRunsToCompletion : Obligations.ResetRunsToCompletion := by
  intro s bs hidle hs
  obtain ⟨s, rfl⟩ := exists_eq_idle hidle
  have accepted := step_command_idle (i := .reset) hs hidle
  refine ⟨fun hburst => ?_, fun e hburst => ⟨Config.freeAdcSel s.draws, ?_⟩⟩
  · exact runSteps_succ accepted (runSteps_succ (step_burst_ok (.inl ⟨rfl, rfl⟩) rfl hburst) rfl)
  · exact runSteps_succ accepted (runSteps_succ (step_burst_err (.inl ⟨rfl, rfl⟩) rfl hburst) rfl)

/-- A RESET whose burst is written, with the sequencer's turn right after it: two steps to its completion, and what was
scheduled and listed behind them is what is left (R220). -/
theorem reset_completes {s : State} {rest : List Turn} {bs : List (BusAnswer Unit)} (hidle : s.busy = false)
    (hs : s.schedule = .access (.write 0x00 4 0x40) :: .sequencer :: rest) (hburst : s.burstAnswers = .ok () :: bs) :
    runSteps 2 s = .next
      { s with
        lastCmd := 0x40, mode := .a128, adcSel := .a128, busy := false, done := true, valid := false, overrun := false,
        code := .ok, phase := .idle, result := 0, busErr := 0, schedule := rest, burstAnswers := bs,
        log := .busWrite (burstFrame s.cfg) (.ok ()) :: s.log } :=
  runSteps_succ (step_command_idle (i := .reset) hs hidle)
    (runSteps_succ (step_burst_ok (.inr ⟨rest, rfl, rfl⟩) rfl hburst) rfl)

/-- Settles O42, by induction on the number of RESETs: the first one leaves an idle block with the others to come, and with
RX and POLLRX as they were. -/
theorem resetsAreIdempotent : Obligations.ResetsAreIdempotent := by
  intro n s bs hn hidle hs hburst
  induction n, hn using Nat.le_induction generalizing s with
  | base => exact ⟨_, reset_completes hidle hs hburst, rfl, rfl, rfl, rfl, rfl, rfl, rfl⟩
  | succ n _ ih =>
    rw [show 2 * (n + 1) = 2 + 2 * n by omega, runSteps_add (reset_completes hidle hs hburst)]
    exact ih _ rfl rfl rfl

end Sys2Proof.Machine
end

section
/-! PROOFS. The unsupported power operations (44_power.md R250, R251, R252) and the illegal words with their OPs. -/

namespace Sys2Proof.Machine

/-- A word with OP 0x5 or 0x6 is illegal unless RSV and M are 0 (R106, cases 2 and 3). -/
theorem decode_illegal_of_power_op {w : Byte} (hop : w.toNat / 16 = 5 ∨ w.toNat / 16 = 6) (hlow : w.toNat % 16 ≠ 0) :
    ∃ why, decode w = .illegal why := by
  obtain ⟨-, -, illegal_iff⟩ := decodeInvertsEncode
  rw [illegal_iff]
  omega

/-- Settles O24: in an idle block each of the two is accepted and completed, in a busy one it is dropped; their neighbours
are words with an operand or with RSV set. -/
theorem powerCommandsAreUnsupported : Obligations.PowerCommandsAreUnsupported := by
  refine ⟨fun s i w hmem hidle => ?_, fun s i _ hbusy => ?_, fun w => decode_illegal_of_power_op⟩
  · obtain ⟨rfl, hbody⟩ : w = encode i ∧ acceptedBody i = complete .unsupported := by
      simp only [List.mem_cons, Prod.mk.injEq, List.not_mem_nil, or_false] at hmem
      obtain ⟨rfl, rfl⟩ | ⟨rfl, rfl⟩ := hmem <;> exact ⟨rfl, rfl⟩
    refine ⟨decode_encode i, ?_⟩
    rw [exec_idle i hidle, hbody]
    rfl
  · exact ⟨_, by rw [exec_busy i hbusy, dropCommand_eq]⟩

end Sys2Proof.Machine
end

section
/-! PROOFS. A CMD write by the word's decoding and by BUSY (60_exceptions.md R261, R264, R265): the step is the command that
the word decodes to, dropped in a busy block and accepted in an idle one; a placed command (log entry 6). -/

namespace Sys2Proof

/-! ### The command a word decodes to -/

theorem Decoded.eq_instr_of_instr? {d : Decoded} {i : Instr} (h : d.instr? = some i) : d = .instr i := by
  cases d with
  | instr j => exact congrArg Decoded.instr (Option.some.inj h)
  | illegal why => cases h

end Sys2Proof

namespace Sys2Proof.Machine

/-- A CMD write of a legal word is the command's meaning, on the state with the turn taken (R261). -/
theorem step_writesCmd_instr {v : Word} {s t : State} {i : Instr} (h : writesCmd v s t)
    (hi : decode (commandByte v) = .instr i) : step s = exec i t := by
  rw [step_writesCmd h, writeCmd, hi]

/-- A placed command is the host's next turn, on a block between commands (log entry 6). -/
theorem writesCmd_withFetchWord (s : State) (n w : Nat) :
    writesCmd ((tableByte n w).setWidth 32) (s.withFetchWord n w) { s with busy := false, phase := .idle } :=
  ⟨s.schedule, rfl, rfl⟩

/-- Settles O21: both a scheduled write and a placed command are a CMD write of a word that decodes to the command. -/
theorem stepRunsTheDecodedCommand : Obligations.StepRunsTheDecodedCommand := by
  refine ⟨fun v s t i => step_writesCmd_instr, fun s n w i hi => ?_⟩
  apply step_writesCmd_instr (writesCmd_withFetchWord s n w)
  rw [commandByte_setWidth]
  exact Decoded.eq_instr_of_instr? hi

/-! ### The acceptance step -/

/-- Settles O23: each listed command, once accepted, starts its phase. -/
theorem busCommandsStart : Obligations.BusCommandsStart := by
  intro s i w p hmem hidle
  obtain ⟨rfl, hbody⟩ : w = encode i ∧ acceptedBody i = startPhase p := by
    simp only [List.mem_cons, Prod.mk.injEq, List.not_mem_nil, or_false] at hmem
    obtain ⟨rfl, rfl, rfl⟩ | ⟨rfl, rfl, rfl⟩ | ⟨rfl, rfl, rfl⟩ := hmem <;> exact ⟨rfl, rfl⟩
  rw [exec_idle i hidle, hbody]
  rfl

theorem wordBody_of_instr {w : Byte} {i : Instr} (h : decode w = .instr i) : wordBody w = acceptedBody i := by
  rw [wordBody, h]

theorem wordBody_of_illegal {w : Byte} {why : IllegalWord} (h : decode w = .illegal why) :
    wordBody w = complete .illegal := by
  rw [wordBody, h]

/-- A CMD write to a busy block, legal word or not, is dropped in that step (R264). -/
theorem step_writesCmd_busy {v : Word} {s t : State} (h : writesCmd v s t) (hbusy : s.busy = true) :
    step s = .next { t with overrun := true, overrunMark := some (s.overrunMark.getD (commandByte v)) } := by
  obtain ⟨hturn, hmark⟩ : t.busy = true ∧ t.overrunMark = s.overrunMark := by
    obtain ⟨rest, -, rfl⟩ := h
    exact ⟨hbusy, rfl⟩
  rw [step_writesCmd h, writeCmd_eq, command_busy hturn, dropCommand_eq, hmark]

/-- Settles O25: a busy block drops the word, and in an idle one the word's decoding says what follows the acceptance
writes. -/
theorem acceptanceFollowsTheRule : Obligations.AcceptanceFollowsTheRule := by
  intro v s t hwrite
  refine ⟨fun hbusy => ⟨_, step_writesCmd_busy hwrite hbusy⟩, fun hidle => ?_⟩
  have accepted {body : State → State} (hbody : wordBody (commandByte v) = body) :
      step s = .next (body (acceptWrites (commandByte v) t)) := hbody ▸ step_writesCmd_idle hwrite hidle
  have legal {i : Instr} (hd : decode (commandByte v) = .instr i) :
      step s = .next (acceptedBody i (acceptWrites (commandByte v) t)) := accepted (wordBody_of_instr hd)
  exact ⟨fun ⟨_, hd⟩ => accepted (wordBody_of_illegal hd),
    fun m hd => accepted ((wordBody_of_instr hd).trans (acceptedBody_setmode m)), legal, legal, legal, legal, legal⟩

/-! ### The dropped write -/

/-- Settles O27: in a busy block a command is dropped, with its own word. -/
theorem busyBlockRefusesCommands : Obligations.BusyBlockRefusesCommands := by
  intro i s hbusy
  rw [exec_busy i hbusy, dropCommand_eq]

end Sys2Proof.Machine
end

section
/-! PROOFS. OVERRUN and the fault mark over a step (60_exceptions.md R264): the sequencer writes neither, an accepted word
writes no mark and clears OVERRUN, a dropped one keeps a mark that is set. -/

namespace Sys2Proof.Machine

/-! ### The sequencer -/

theorem pollStep_overrun (s : State) :
    (pollStep s).overrun = s.overrun ∧ (pollStep s).overrunMark = s.overrunMark := by
  obtain ⟨_, _, ⟨_, -, h⟩ | ⟨_, -, -, h⟩ | ⟨-, -, h⟩ | ⟨-, -, h⟩⟩ := pollStep_cases s <;> simp [h]

theorem transferStep_overrun (s : State) :
    (transferStep s).overrun = s.overrun ∧ (transferStep s).overrunMark = s.overrunMark := by
  obtain ⟨_, _, ⟨_, -, h⟩ | ⟨_, -, h⟩⟩ := transferStep_cases s <;> simp [h]

theorem burstStep_overrun (s : State) :
    (burstStep s).overrun = s.overrun ∧ (burstStep s).overrunMark = s.overrunMark := by
  obtain ⟨_, _, ⟨_, -, h⟩ | ⟨-, h⟩⟩ := burstStep_cases s <;> simp [h]

/-- The sequencer writes neither OVERRUN nor the mark in any phase. -/
theorem sequencerStep_overrun (s : State) :
    (sequencerStep s).overrun = s.overrun ∧ (sequencerStep s).overrunMark = s.overrunMark := by
  cases h : s.phase with
  | idle => rw [sequencerStep_idle h]; exact ⟨rfl, rfl⟩
  | polling => rw [sequencerStep_polling h]; exact pollStep_overrun s
  | delaying => rw [sequencerStep_delaying h]; exact ⟨rfl, rfl⟩
  | transferring => rw [sequencerStep_transferring h]; exact transferStep_overrun s
  | bursting => rw [sequencerStep_bursting h]; exact burstStep_overrun s

/-! ### A CMD write -/

/-- What a word does once accepted writes neither OVERRUN nor the mark. -/
theorem wordBody_overrun (w : Byte) (s : State) :
    (wordBody w s).overrun = s.overrun ∧ (wordBody w s).overrunMark = s.overrunMark := by
  obtain ⟨m, -, h⟩ | ⟨-, h⟩ | ⟨-, h⟩ | ⟨-, h⟩ | ⟨-, h⟩ := wordBody_cases w <;> simp [h]

/-- An accepted word leaves OVERRUN at 0 (R261). -/
theorem accepted_overrun (w : Byte) (s : State) : (wordBody w (acceptWrites w s)).overrun = false :=
  (wordBody_overrun w _).1

/-- A CMD write leaves OVERRUN set exactly where the block was busy (R261, R264). -/
theorem command_overrun (w : Byte) (s : State) : (command w (wordBody w) s).overrun = s.busy := by
  cases h : s.busy with
  | true => rw [command_busy h, dropCommand_overrun]
  | false => rw [command_idle h, accepted_overrun]

/-- A CMD write, dropped or accepted, keeps a mark that is set. -/
theorem command_overrunMark {s : State} {w₀ : Byte} (hmark : s.overrunMark = some w₀) (w : Byte) :
    (command w (wordBody w) s).overrunMark = some w₀ := by
  cases h : s.busy with
  | true => rw [command_busy h, dropCommand_overrunMark, hmark, Option.getD_some]
  | false => rw [command_idle h, (wordBody_overrun w _).2, acceptWrites_overrunMark, hmark]

/-! ### Any step -/

/-- No step changes a mark that is set (R264). -/
theorem step_keeps_overrunMark {s t : State} {w : Byte} (hst : step s = .next t) (hmark : s.overrunMark = some w) :
    t.overrunMark = some w := by
  obtain ⟨u, hu, rfl⟩ | ⟨v, u, ⟨rest, -, rfl⟩, rfl⟩ | ⟨rest, log, rfl⟩ | ⟨rest, -, rfl⟩ := step_next_cases hst
  · obtain ⟨rest, rfl⟩ := sequencerTurn_frame hu
    exact (sequencerStep_overrun _).2.trans hmark
  · exact command_overrunMark (s := { s with schedule := rest }) hmark _
  · exact hmark
  · exact hmark

/-- A step that clears OVERRUN is an accepted CMD write or a block reset (R264). -/
theorem step_clears_overrun {s t : State} (hst : step s = .next t) (hset : s.overrun = true)
    (hclear : t.overrun = false) :
    (s.busy = false ∧ ∃ v u, writesCmd v s u) ∨ ∃ rest, s.schedule = .blockReset :: rest := by
  have notKept : t.overrun ≠ s.overrun := by simp [hset, hclear]
  obtain ⟨u, hu, rfl⟩ | ⟨v, u, hu, rfl⟩ | ⟨rest, log, rfl⟩ | ⟨rest, hs, -⟩ := step_next_cases hst
  · obtain ⟨rest, rfl⟩ := sequencerTurn_frame hu
    exact absurd (sequencerStep_overrun _).1 notKept
  · rw [command_overrun] at hclear
    have hidle : s.busy = false := by
      obtain ⟨rest, -, rfl⟩ := hu
      exact hclear
    exact .inl ⟨hidle, v, u, hu⟩
  · exact absurd rfl notKept
  · exact .inr ⟨rest, hs⟩

/-- Settles O26: the dropped write, the mark over any step, the accepted write, and what clears OVERRUN. -/
theorem busyWriteIsDropped : Obligations.BusyWriteIsDropped :=
  ⟨fun _ _ _ => step_writesCmd_busy, fun _ _ _ => step_keeps_overrunMark,
    fun _ _ _ hwrite hidle => ⟨_, step_writesCmd_idle hwrite hidle, accepted_overrun _ _⟩,
    fun _ _ => step_clears_overrun⟩

end Sys2Proof.Machine
end

section
/-! PROOFS. What stops a step (60_exceptions.md R278): a host access without a meaning (20_memory.md R74; log entry 9), and
nothing else. -/

namespace Sys2Proof

/-- The accesses that the block gives a meaning to (R70, R74). -/
theorem HostAccess.wf_iff (a : HostAccess) : a.wf = true ↔ a.size = 4 ∧ a.off % 4 = 0 ∧ a.off < 0x20 := by
  simp [HostAccess.wf, HostAccess.aligned, HostAccess.inWindow, and_assoc]

end Sys2Proof

namespace Sys2Proof.Machine

/-- A step has a next state if the turn it takes is no access, or one that the block gives a meaning to. -/
theorem exists_step_of_wf {s : State} (h : ∀ a rest, s.schedule = .access a :: rest → a.wf = true) :
    ∃ t, step s = .next t := by
  obtain ⟨_, -, hnext⟩ | ⟨v, t, -, hwrite⟩ | ⟨_, _, _, -, -, hnext⟩ | ⟨_, _, _, -, -, -, hnext⟩ | ⟨rest, a, hs, hbad, -⟩ |
    ⟨_, -, hnext⟩ | ⟨_, -, hnext⟩ := step_cases s
  case inr.inl => exact ⟨_, hwrite.trans (writeCmd_eq v t)⟩
  case inr.inr.inr.inr.inl => rw [h a rest hs] at hbad; cases hbad
  all_goals exact ⟨_, hnext⟩

/-- Settles O18: an access with a next state has a meaning, and every other turn has one. -/
theorem onlyBadAccessStops : Obligations.OnlyBadAccessStops := by
  intro s
  simp only [← HostAccess.wf_iff]
  exact ⟨fun ⟨_, ht⟩ a rest hs => wf_of_step_access hs ht, exists_step_of_wf⟩

end Sys2Proof.Machine
end

section
/-! PROOFS. The block reset (70_reset_and_hazards.md R300, R301): the step that takes it, and what the host reads of the block
it leaves. -/

namespace Sys2Proof.Machine

/-- The block reset's turn resets the block, with that turn taken from the schedule. -/
theorem step_blockReset {s : State} {rest : List Turn} (hs : s.schedule = .blockReset :: rest) :
    step s = .next (blockReset { s with schedule := rest }) := step_turn hs

/-- Settles O34: the step is the block reset, whose seven received bytes are 0. -/
theorem blockResetClearsRegisters : Obligations.BlockResetClearsRegisters :=
  fun _ _ => step_blockReset

/-- RSTLEN reads the configuration, which a block reset does not change (R300). -/
theorem readReg_rstlen_blockReset (s : State) : readReg .rstlen (blockReset s) = s.cfg.resetBytes.setWidth 32 := rfl

/-- Every other register reads 0 after a block reset (R301). -/
theorem readReg_blockReset {r : HostReg} (hr : r ≠ .rstlen) (s : State) : readReg r (blockReset s) = 0 := by
  cases r with
  | status => exact statusWord_blockReset s
  | rstlen => exact absurd rfl hr
  | rxlo | rxhi => rw [readReg, blockReset_rx]; decide
  | cmd | result | buserr | reserved => rfl

/-- Settles O35: what the host reads of the state that the reset's step leaves. -/
theorem hostReadsZeroAfterBlockReset : Obligations.HostReadsZeroAfterBlockReset := by
  intro s rest hs
  have zero {r : HostReg} (hr : r ≠ .rstlen) := readReg_blockReset hr { s with schedule := rest }
  exact ⟨_, step_blockReset hs, zero nofun, zero nofun, zero nofun, zero nofun, zero nofun, zero nofun,
    readReg_rstlen_blockReset _⟩

end Sys2Proof.Machine
end
